-- ==== Sys2Proof/Word.lean ====
section
/-! DEFINITION. The word types of the CORE (spec/00_scope.md R7, R8, R9). All values are unsigned. -/

namespace Sys2Proof

/-- One byte of memory, one general register, one timer (R7: `REG_W`, `TIMER_W`). -/
abbrev Byte := BitVec 8

/-- A 16-bit value: an instruction word, PC, I, a return-stack cell (R7: `PC_W`, `I_W`). -/
abbrev Word := BitVec 16

/-- The number of a general register, V0..VF (R7: `NREG` = 16). -/
abbrev Reg := Fin 16

/-- `VF` is `V[15]` (R10). -/
abbrev regF : Reg := 15

end Sys2Proof
end

