-- ==== Sys2Proof/Syntax.lean ====
section
/-! DEFINITION. The 34 operations of spec/30_encoding.md R66, one constructor each, in the table's order.
Operands carry the ranges of R64 in their types: `x`, `y` a register number, `n` 0..15, `kk` 0..255, `nnn` 0..4095. -/

namespace Sys2Proof

inductive Instr
  | cls                                    -- 00E0
  | ret                                    -- 00EE
  | jp (nnn : BitVec 12)                   -- 1nnn
  | call (nnn : BitVec 12)                 -- 2nnn
  | seImm (x : Reg) (kk : Byte)            -- 3xkk
  | sneImm (x : Reg) (kk : Byte)           -- 4xkk
  | seReg (x y : Reg)                      -- 5xy0
  | ldImm (x : Reg) (kk : Byte)            -- 6xkk
  | addImm (x : Reg) (kk : Byte)           -- 7xkk
  | ldReg (x y : Reg)                      -- 8xy0
  | orReg (x y : Reg)                      -- 8xy1
  | andReg (x y : Reg)                     -- 8xy2
  | xorReg (x y : Reg)                     -- 8xy3
  | addReg (x y : Reg)                     -- 8xy4
  | subReg (x y : Reg)                     -- 8xy5
  | shr (x y : Reg)                        -- 8xy6: y is decoded and not read (R65)
  | subn (x y : Reg)                       -- 8xy7
  | shl (x y : Reg)                        -- 8xyE: y is decoded and not read (R65)
  | sneReg (x y : Reg)                     -- 9xy0
  | ldI (nnn : BitVec 12)                  -- Annn
  | jpV0 (nnn : BitVec 12)                 -- Bnnn
  | rnd (x : Reg) (kk : Byte)              -- Cxkk
  | drw (x y : Reg) (n : Fin 16)           -- Dxyn
  | skp (x : Reg)                          -- Ex9E
  | sknp (x : Reg)                         -- ExA1
  | ldVxDt (x : Reg)                       -- Fx07
  | ldVxK (x : Reg)                        -- Fx0A
  | ldDtVx (x : Reg)                       -- Fx15
  | ldStVx (x : Reg)                       -- Fx18
  | addI (x : Reg)                         -- Fx1E
  | ldIFont (x : Reg)                      -- Fx29
  | ldBcd (x : Reg)                        -- Fx33
  | stRegs (x : Reg)                       -- Fx55
  | ldRegs (x : Reg)                       -- Fx65
  deriving DecidableEq, Repr

end Sys2Proof
end

