-- ==== Sys2Proof/WellFormed.lean ====
section
/-! DEFINITION. Well-formed instructions: the operands are exactly the fields of the instruction's format
(spec/30_encoding.md R65), each in the range R64 gives it. `Instr` carries the ranges in its operand types,
so the check can only fail on loose operands (`Operands`), as an assembler would hand them over. -/

namespace Sys2Proof

/-- The operand shapes of R65. -/
inductive Format
  | N
  | NNN
  | XKK
  | XY
  | XYN
  | X
  deriving DecidableEq, Repr

/-- Loose operands, by field name (R64). -/
structure Operands where
  x : Option Nat := none
  y : Option Nat := none
  n : Option Nat := none
  kk : Option Nat := none
  nnn : Option Nat := none
  deriving DecidableEq, Repr

/-- A field is present exactly when the format has it, and its value is below `bound` (R64). -/
def fieldOk (has : Bool) (bound : Nat) : Option Nat → Bool
  | none => !has
  | some v => has && decide (v < bound)

/-- The fields each format has (R65), with the ranges of R64. -/
def Format.admits (f : Format) (o : Operands) : Bool :=
  fieldOk (f == .XKK || f == .XY || f == .XYN || f == .X) 16 o.x &&
  fieldOk (f == .XY || f == .XYN) 16 o.y &&
  fieldOk (f == .XYN) 16 o.n &&
  fieldOk (f == .XKK) 256 o.kk &&
  fieldOk (f == .NNN) 4096 o.nnn

/-- The format column of R66. -/
def Instr.format : Instr → Format
  | .cls => .N
  | .ret => .N
  | .jp _ => .NNN
  | .call _ => .NNN
  | .seImm _ _ => .XKK
  | .sneImm _ _ => .XKK
  | .seReg _ _ => .XY
  | .ldImm _ _ => .XKK
  | .addImm _ _ => .XKK
  | .ldReg _ _ => .XY
  | .orReg _ _ => .XY
  | .andReg _ _ => .XY
  | .xorReg _ _ => .XY
  | .addReg _ _ => .XY
  | .subReg _ _ => .XY
  | .shr _ _ => .XY
  | .subn _ _ => .XY
  | .shl _ _ => .XY
  | .sneReg _ _ => .XY
  | .ldI _ => .NNN
  | .jpV0 _ => .NNN
  | .rnd _ _ => .XKK
  | .drw _ _ _ => .XYN
  | .skp _ => .X
  | .sknp _ => .X
  | .ldVxDt _ => .X
  | .ldVxK _ => .X
  | .ldDtVx _ => .X
  | .ldStVx _ => .X
  | .addI _ => .X
  | .ldIFont _ => .X
  | .ldBcd _ => .X
  | .stRegs _ => .X
  | .ldRegs _ => .X

/-- The operands an instruction term carries, by field name. -/
def Instr.operands : Instr → Operands
  | .cls => {}
  | .ret => {}
  | .jp nnn => { nnn := some nnn.toNat }
  | .call nnn => { nnn := some nnn.toNat }
  | .seImm x kk => { x := some x.val, kk := some kk.toNat }
  | .sneImm x kk => { x := some x.val, kk := some kk.toNat }
  | .seReg x y => { x := some x.val, y := some y.val }
  | .ldImm x kk => { x := some x.val, kk := some kk.toNat }
  | .addImm x kk => { x := some x.val, kk := some kk.toNat }
  | .ldReg x y => { x := some x.val, y := some y.val }
  | .orReg x y => { x := some x.val, y := some y.val }
  | .andReg x y => { x := some x.val, y := some y.val }
  | .xorReg x y => { x := some x.val, y := some y.val }
  | .addReg x y => { x := some x.val, y := some y.val }
  | .subReg x y => { x := some x.val, y := some y.val }
  | .shr x y => { x := some x.val, y := some y.val }
  | .subn x y => { x := some x.val, y := some y.val }
  | .shl x y => { x := some x.val, y := some y.val }
  | .sneReg x y => { x := some x.val, y := some y.val }
  | .ldI nnn => { nnn := some nnn.toNat }
  | .jpV0 nnn => { nnn := some nnn.toNat }
  | .rnd x kk => { x := some x.val, kk := some kk.toNat }
  | .drw x y n => { x := some x.val, y := some y.val, n := some n.val }
  | .skp x => { x := some x.val }
  | .sknp x => { x := some x.val }
  | .ldVxDt x => { x := some x.val }
  | .ldVxK x => { x := some x.val }
  | .ldDtVx x => { x := some x.val }
  | .ldStVx x => { x := some x.val }
  | .addI x => { x := some x.val }
  | .ldIFont x => { x := some x.val }
  | .ldBcd x => { x := some x.val }
  | .stRegs x => { x := some x.val }
  | .ldRegs x => { x := some x.val }

/-- An instruction is well formed when its operands are its format's fields in range (R64, R65). -/
def Instr.wellFormed (i : Instr) : Bool := i.format.admits i.operands

end Sys2Proof
end

