-- ==== Sys2Proof/Decode.lean ====
section
/-! DEFINITION. The template decoder of spec/30_encoding.md R64, R66, R67 and an encoder written from the
same table. The instruction word is big-endian in memory (spec/20_memory.md R49). -/

namespace Sys2Proof

/-- `x` = w[11:8] (R64). -/
def fieldX (w : Word) : Reg := (w.extractLsb' 8 4).toFin

/-- `y` = w[7:4] (R64). -/
def fieldY (w : Word) : Reg := (w.extractLsb' 4 4).toFin

/-- `n` = w[3:0] (R64). -/
def fieldN (w : Word) : Fin 16 := (w.extractLsb' 0 4).toFin

/-- `kk` = w[7:0] (R64). -/
def fieldKk (w : Word) : Byte := w.extractLsb' 0 8

/-- `nnn` = w[11:0] (R64). -/
def fieldNnn (w : Word) : BitVec 12 := w.extractLsb' 0 12

/-- One row of R66: a word `w` matches when `w &&& mask = lit`; `build` takes the operands from the word. -/
structure Template where
  mask : Word
  lit : Word
  build : Word → Instr

/-- `(w & t.mask) == t.match` of R67. -/
def Template.accepts (t : Template) (w : Word) : Bool := w &&& t.mask == t.lit

/-- The template list of R66, in priority order. -/
def templates : List Template :=
  [ ⟨0xFFFF, 0x00E0, fun _ => .cls⟩,
    ⟨0xFFFF, 0x00EE, fun _ => .ret⟩,
    ⟨0xF000, 0x1000, fun w => .jp (fieldNnn w)⟩,
    ⟨0xF000, 0x2000, fun w => .call (fieldNnn w)⟩,
    ⟨0xF000, 0x3000, fun w => .seImm (fieldX w) (fieldKk w)⟩,
    ⟨0xF000, 0x4000, fun w => .sneImm (fieldX w) (fieldKk w)⟩,
    ⟨0xF00F, 0x5000, fun w => .seReg (fieldX w) (fieldY w)⟩,
    ⟨0xF000, 0x6000, fun w => .ldImm (fieldX w) (fieldKk w)⟩,
    ⟨0xF000, 0x7000, fun w => .addImm (fieldX w) (fieldKk w)⟩,
    ⟨0xF00F, 0x8000, fun w => .ldReg (fieldX w) (fieldY w)⟩,
    ⟨0xF00F, 0x8001, fun w => .orReg (fieldX w) (fieldY w)⟩,
    ⟨0xF00F, 0x8002, fun w => .andReg (fieldX w) (fieldY w)⟩ ] ++
  [ ⟨0xF00F, 0x8003, fun w => .xorReg (fieldX w) (fieldY w)⟩,
    ⟨0xF00F, 0x8004, fun w => .addReg (fieldX w) (fieldY w)⟩,
    ⟨0xF00F, 0x8005, fun w => .subReg (fieldX w) (fieldY w)⟩,
    ⟨0xF00F, 0x8006, fun w => .shr (fieldX w) (fieldY w)⟩,
    ⟨0xF00F, 0x8007, fun w => .subn (fieldX w) (fieldY w)⟩,
    ⟨0xF00F, 0x800E, fun w => .shl (fieldX w) (fieldY w)⟩,
    ⟨0xF00F, 0x9000, fun w => .sneReg (fieldX w) (fieldY w)⟩,
    ⟨0xF000, 0xA000, fun w => .ldI (fieldNnn w)⟩,
    ⟨0xF000, 0xB000, fun w => .jpV0 (fieldNnn w)⟩,
    ⟨0xF000, 0xC000, fun w => .rnd (fieldX w) (fieldKk w)⟩,
    ⟨0xF000, 0xD000, fun w => .drw (fieldX w) (fieldY w) (fieldN w)⟩ ] ++
  [ ⟨0xF0FF, 0xE09E, fun w => .skp (fieldX w)⟩,
    ⟨0xF0FF, 0xE0A1, fun w => .sknp (fieldX w)⟩,
    ⟨0xF0FF, 0xF007, fun w => .ldVxDt (fieldX w)⟩,
    ⟨0xF0FF, 0xF00A, fun w => .ldVxK (fieldX w)⟩,
    ⟨0xF0FF, 0xF015, fun w => .ldDtVx (fieldX w)⟩,
    ⟨0xF0FF, 0xF018, fun w => .ldStVx (fieldX w)⟩,
    ⟨0xF0FF, 0xF01E, fun w => .addI (fieldX w)⟩,
    ⟨0xF0FF, 0xF029, fun w => .ldIFont (fieldX w)⟩,
    ⟨0xF0FF, 0xF033, fun w => .ldBcd (fieldX w)⟩,
    ⟨0xF0FF, 0xF055, fun w => .stRegs (fieldX w)⟩,
    ⟨0xF0FF, 0xF065, fun w => .ldRegs (fieldX w)⟩ ]

/-- The decoder's answer: exactly one operation with its operands, or the distinct "unrecognized" result (R67). -/
inductive Decoded
  | instr (i : Instr)
  | unrecognized
  deriving DecidableEq, Repr

/-- R67 over any template list: the first template that matches decides. -/
def decodeWith (ts : List Template) (w : Word) : Decoded :=
  match ts.find? (fun t => t.accepts w) with
  | some t => .instr (t.build w)
  | none => .unrecognized

/-- R67: total on all 65536 words. The sentinel 0x0000 matches no template (R70). -/
def decode (w : Word) : Decoded := decodeWith templates w

/-- The word of two bytes in address order, the first the high byte (spec/20_memory.md R49). -/
def wordOfBytes (hi lo : Byte) : Word := hi ++ lo

/-- The byte at the lower address of a word (R49). -/
def highByte (w : Word) : Byte := w.extractLsb' 8 8

/-- The byte at the higher address of a word (R49). -/
def lowByte (w : Word) : Byte := w.extractLsb' 0 8

/-- What a run of bytes starts with: an instruction and the bytes after it, an unrecognized word, or fewer than two bytes. -/
inductive DecodedBytes
  | instr (i : Instr) (rest : List Byte)
  | unrecognized (w : Word)
  | truncated
  deriving DecidableEq, Repr

/-- Decoding from bytes in address order (R63: every instruction is two bytes). -/
def decodeBytes : List Byte → DecodedBytes
  | hi :: lo :: rest =>
    match decode (wordOfBytes hi lo) with
    | .instr i => .instr i rest
    | .unrecognized => .unrecognized (wordOfBytes hi lo)
  | _ => .truncated

/-- A register number as the nibble that encodes it (R64). -/
def nibble (r : Fin 16) : BitVec 4 := BitVec.ofFin r

/-- The word of a template with nibbles `op`, x, y, `last` (formats XY and XYN of R65). -/
def encodeXY (op : BitVec 4) (x y : Reg) (last : BitVec 4) : Word := op ++ nibble x ++ nibble y ++ last

/-- The word of a template with nibbles `op`, x and the byte `low` (formats XKK and X of R65). -/
def encodeXB (op : BitVec 4) (x : Reg) (low : Byte) : Word := op ++ nibble x ++ low

/-- The word of a template with nibble `op` and the address nnn (format NNN of R65). -/
def encodeNNN (op : BitVec 4) (nnn : BitVec 12) : Word := op ++ nnn

/-- The instruction word of each operation, nibble 1 first, from the templates of R66. -/
def encode : Instr → Word
  | .cls => 0x00E0
  | .ret => 0x00EE
  | .jp nnn => encodeNNN 0x1 nnn
  | .call nnn => encodeNNN 0x2 nnn
  | .seImm x kk => encodeXB 0x3 x kk
  | .sneImm x kk => encodeXB 0x4 x kk
  | .seReg x y => encodeXY 0x5 x y 0x0
  | .ldImm x kk => encodeXB 0x6 x kk
  | .addImm x kk => encodeXB 0x7 x kk
  | .ldReg x y => encodeXY 0x8 x y 0x0
  | .orReg x y => encodeXY 0x8 x y 0x1
  | .andReg x y => encodeXY 0x8 x y 0x2
  | .xorReg x y => encodeXY 0x8 x y 0x3
  | .addReg x y => encodeXY 0x8 x y 0x4
  | .subReg x y => encodeXY 0x8 x y 0x5
  | .shr x y => encodeXY 0x8 x y 0x6
  | .subn x y => encodeXY 0x8 x y 0x7
  | .shl x y => encodeXY 0x8 x y 0xE
  | .sneReg x y => encodeXY 0x9 x y 0x0
  | .ldI nnn => encodeNNN 0xA nnn
  | .jpV0 nnn => encodeNNN 0xB nnn
  | .rnd x kk => encodeXB 0xC x kk
  | .drw x y n => encodeXY 0xD x y (nibble n)
  | .skp x => encodeXB 0xE x 0x9E
  | .sknp x => encodeXB 0xE x 0xA1
  | .ldVxDt x => encodeXB 0xF x 0x07
  | .ldVxK x => encodeXB 0xF x 0x0A
  | .ldDtVx x => encodeXB 0xF x 0x15
  | .ldStVx x => encodeXB 0xF x 0x18
  | .addI x => encodeXB 0xF x 0x1E
  | .ldIFont x => encodeXB 0xF x 0x29
  | .ldBcd x => encodeXB 0xF x 0x33
  | .stRegs x => encodeXB 0xF x 0x55
  | .ldRegs x => encodeXB 0xF x 0x65

/-- The word whose low `nbits` bits are those of `w`, the bits above them 0 (spec/opcode_table.json numbers
a row's bits from the least significant bit of its one 16-bit word). -/
def tableWord (nbits w : Nat) : Word := BitVec.ofNat 16 (w % 2 ^ nbits)

/-- The instruction the decoder reads from a word of the opcode table, laid out in memory order. -/
def decodeTableWord (nbits w : Nat) : Option Instr :=
  match decodeBytes [highByte (tableWord nbits w), lowByte (tableWord nbits w)] with
  | .instr i _ => some i
  | .unrecognized _ => none
  | .truncated => none

end Sys2Proof
end

