-- ==== Sys2Proof/Config.lean ====
section
/-! DEFINITION. The OPEN parameters of spec/00_scope.md R7 that change an instruction's or the loop's
meaning, as plain data, and the free values. A machine carries its `Params` in its state, and no step
changes them (log 9), so a claim about every state is a claim about every value of them (R22).
`FONT` and the `INIT_*` contents are arguments of `powerOn` (Machine/Boot.lean). -/

namespace Sys2Proof.Config

/-- `STACK_FAULT_POLICY` (R7, R143; D5). -/
inductive StackFaultPolicy
  | halt
  | continues
  deriving DecidableEq, Repr

/-- `XF_DEST_RULE` (R7, spec/10_state.md R28; D19): what VF holds after `8xy4`..`8xyE` with x = 15. -/
inductive XfDestRule
  | sequential
  | snapshot
  | flagWins
  deriving DecidableEq, Repr

/-- The parameters a machine is built with. -/
structure Params where
  stackFaultPolicy : StackFaultPolicy
  /-- `ST_DECREMENTS` (R7, spec/40_step_loop.md R89; D11). -/
  stDecrements : Bool
  xfDestRule : XfDestRule
  deriving DecidableEq, Repr

/-- The spec's defaults (R7): `halt`, `true`, `sequential`. -/
def Params.default : Params :=
  { stackFaultPolicy := .halt, stDecrements := true, xfDestRule := .sequential }

/-- FREE VALUE (log 11; R7 `RND`, spec/43_alu.md R118, D24): the random byte presented at a poll for which
the state's `script` presents none, indexed by the state's `drawCount`. It has no body: no proof can see a value. -/
opaque freeDraw : Nat → Byte

end Sys2Proof.Config
end

