-- ==== Sys2Proof/Machine/State.lean ====
section
/-! DEFINITION. The state of the CORE (spec/10_state.md R23), the reasons a step can stop, and the state
at reset (R45). Plain data throughout. -/

namespace Sys2Proof.Machine

/-- `RS`, the step loop's state (R39). -/
inductive RunState
  | running
  | waitingForKey
  | halted
  deriving DecidableEq, Repr

/-- `HALT_CAUSE` (R40; spec/60_exceptions.md R138), in the order of its codes 0..7. -/
inductive HaltCause
  | none
  | sentinel
  | closeRequested
  | unrecognizedInstruction
  | outOfRangeAddress
  | stackOverflow
  | stackUnderflow
  | romTooLarge
  deriving DecidableEq, Repr

/-- The display grid (R41): column px, then row py, `true` is set. -/
abbrev Display := Vector (Vector Bool 32) 64

/-- The 4096-byte memory (spec/20_memory.md R46) in canonical form: addresses strictly rising, no entry
equal to what an unlisted address reads as (`unlisted`, Machine/Ops.lean; log 7, log 8). -/
abbrev Memory := List Host.Cell

/-- One tick's inputs at the ports `keys`, `close_req` and `rnd` (R44). Bit k of `keys` is key k. -/
structure TickInput where
  keys : BitVec 16
  closeReq : Bool
  draw : Byte
  deriving DecidableEq, Repr

structure State where
  /-- V0..VF (R25). -/
  v : Vector Byte 16
  /-- The index register I (R30). -/
  i : Word
  /-- PC (R32): during a tick, the address the instruction was fetched from. -/
  pc : Word
  /-- SP (R36): the number of return addresses held. -/
  sp : BitVec 8
  /-- STACK[0..15] (R35). -/
  stack : Vector Word 16
  /-- The delay timer DT (R38). -/
  dt : Byte
  /-- The sound timer ST (R38). -/
  st : Byte
  /-- RS (R39). -/
  rs : RunState
  /-- HALT_CAUSE (R40). -/
  haltCause : HaltCause
  /-- FAULT_PC (R40). -/
  faultPc : Word
  /-- FAULT_WORD (R40). -/
  faultWord : Word
  /-- DIAG_OVF (R40), sticky. -/
  diagOvf : Bool
  /-- DIAG_UNF (R40), sticky. -/
  diagUnf : Bool
  /-- DISP (R41). -/
  disp : Display
  /-- Memory (R46). -/
  mem : Memory
  /-- KEY[0..15], the sample of the last poll (R42). -/
  keys : BitVec 16
  /-- The close request sampled by the last poll (R44). -/
  closeReq : Bool
  /-- The random draw of the tick (R44), sampled with the poll. -/
  draw : Byte
  /-- What the collaborators present at the next polls, the next first (log 10). -/
  script : List TickInput
  /-- The index of the next free draw (log 11). -/
  drawCount : Nat
  /-- How many `present` events have been emitted (spec/40_step_loop.md R93; log 16). -/
  frames : Nat
  /-- The parameters of this machine (spec/00_scope.md R7, R22; log 9). -/
  params : Config.Params
  deriving DecidableEq, Repr

/-- Why a step stops with no next state. Every condition the spec names is a halt, which is a next state
with RS = HALTED (log 12), so none of them is here. -/
inductive Fault
  /-- Raised by `2nnn` with SP above 15 and by `00EE` with SP above 16, where the return stack has no
  cell to write or read. R36 says SP takes only the values 0..15, and no step leaves that range from within
  it: no run reaches this fault. Safe (log 14). -/
  | stackPointerBeyondStack
  deriving DecidableEq, Repr

/-- Why an instruction has no meaning in the model. -/
inductive Refusal
  /-- Raised by an arm of `exec` whose instruction has no meaning yet. No arm raises it. Safe. -/
  | notModelled (mnemonic : String)
  deriving DecidableEq, Repr

/-- The state on entry to the first tick (R45), with no ROM loaded (log 1). PC, SP, RS and the status
registers have the values the spec states, the rest those of log 2 to 11. -/
def State.reset : State :=
  { v := Vector.replicate 16 0
    i := 0
    pc := 0x200
    sp := 0
    stack := Vector.replicate 16 0
    dt := 0
    st := 0
    rs := .running
    haltCause := .none
    faultPc := 0
    faultWord := 0
    diagOvf := false
    diagUnf := false
    disp := Vector.replicate 64 (Vector.replicate 32 false)
    mem := []
    keys := 0
    closeReq := false
    draw := 0
    script := []
    drawCount := 0
    frames := 0
    params := Config.Params.default }

end Sys2Proof.Machine
end

