-- ==== Sys2Proof/Machine/Ops.lean ====
section
/-! DEFINITION. The named operations over registers, memory, display, status and inputs that the
instruction meanings and the step loop are written with. -/

namespace Sys2Proof.Machine

/-! ### Memory -/

/-- The spec's default FONT (spec/70_reset_and_hazards.md R160; log 8): glyph g at 5*g. -/
def defaultFont : List Byte :=
  [0xF0, 0x90, 0x90, 0x90, 0xF0] ++ [0x20, 0x60, 0x20, 0x20, 0x70] ++
  [0xF0, 0x10, 0xF0, 0x80, 0xF0] ++ [0xF0, 0x10, 0xF0, 0x10, 0xF0] ++
  [0x90, 0x90, 0xF0, 0x10, 0x10] ++ [0xF0, 0x80, 0xF0, 0x10, 0xF0] ++
  [0xF0, 0x80, 0xF0, 0x90, 0xF0] ++ [0xF0, 0x10, 0x20, 0x40, 0x40] ++
  [0xF0, 0x90, 0xF0, 0x90, 0xF0] ++ [0xF0, 0x90, 0xF0, 0x10, 0xF0] ++
  [0xF0, 0x90, 0xF0, 0x90, 0x90] ++ [0xE0, 0x90, 0xE0, 0x90, 0xE0] ++
  [0xF0, 0x80, 0x80, 0x80, 0xF0] ++ [0xE0, 0x90, 0x90, 0x90, 0xE0] ++
  [0xF0, 0x80, 0xF0, 0x80, 0xF0] ++ [0xF0, 0x80, 0xF0, 0x80, 0x80]

/-- What an address with no entry reads as: the font at 0x000..0x04F (spec/20_memory.md R47), 0 elsewhere
(DESIGN CHOICE, log 7; spec/10_state.md R45 recommends it). -/
def unlisted (a : Nat) : Byte := defaultFont.getD a 0

/-- `MemRead(a, 1)` (spec/00_scope.md R11). -/
def Memory.read : Memory → Nat → Byte
  | [], a => unlisted a
  | (b, x) :: m, a => if b = a then x else Memory.read m a

/-- `MemWrite(a, 1, x)` (R11), keeping the canonical form. -/
def Memory.write : Memory → Nat → Byte → Memory
  | [], a, x => if x = unlisted a then [] else [(a, x)]
  | (b, y) :: m, a, x =>
    if a < b then (if x = unlisted a then (b, y) :: m else (a, x) :: (b, y) :: m)
    else if a = b then (if x = unlisted a then m else (a, x) :: m)
    else (b, y) :: Memory.write m a x

/-- Consecutive bytes written in increasing address order (spec/20_memory.md R58). -/
def Memory.writeBytes : Memory → Nat → List Byte → Memory
  | m, _, [] => m
  | m, a, x :: xs => Memory.writeBytes (Memory.write m a x) (a + 1) xs

/-- The canonical form from address `lo` on: strictly rising addresses below 0x1000, no entry equal to what
an unlisted address reads as. -/
def Memory.wfFrom : Nat → Memory → Bool
  | _, [] => true
  | lo, (a, x) :: m => decide (lo ≤ a) && decide (a < 4096) && !decide (x = unlisted a) && Memory.wfFrom (a + 1) m

/-- The canonical form of memory. -/
def Memory.wf (m : Memory) : Bool := Memory.wfFrom 0 m

/-- `CheckRange(lo, hi)` (R54): whether every address of lo..hi exists. -/
def inRange (hi : Nat) : Bool := decide (hi ≤ 0xFFF)

def State.readByte (s : State) (a : Nat) : Byte := s.mem.read a

def State.setMem (s : State) (m : Memory) : State := { s with mem := m }

/-! ### Registers (spec/10_state.md R10, R25 to R38) -/

def State.getV (s : State) (r : Reg) : Byte := s.v[r.val]

def State.setV (s : State) (r : Reg) (x : Byte) : State := { s with v := s.v.set r.val x }

def State.setI (s : State) (a : Word) : State := { s with i := a }

def State.setPc (s : State) (a : Word) : State := { s with pc := a }

def State.setDt (s : State) (x : Byte) : State := { s with dt := x }

def State.setSt (s : State) (x : Byte) : State := { s with st := x }

def State.setRs (s : State) (r : RunState) : State := { s with rs := r }

/-- Registers `V[0]`..`V[n-1]` in order (for `Fx55`, spec/44_index_memory.md R123). -/
def State.firstRegs (s : State) (n : Nat) : List Byte := s.v.toList.take n

/-- The register file after `V[k] <- MemRead(a + k, 1)` for k = 0..n-1 in that order (for `Fx65`, R124). -/
def State.loadedRegs (s : State) (a : Nat) : Nat → Vector Byte 16
  | 0 => s.v
  | n + 1 => (State.loadedRegs s a n).setIfInBounds n (s.readByte (a + n))

def State.setRegs (s : State) (v : Vector Byte 16) : State := { s with v := v }

/-! ### Return stack (R35, R36; spec/41_control_transfer.md R97, R99) -/

/-- `STACK[SP] <- a; SP <- SP + 1`, for SP at most 15. -/
def State.push (s : State) (a : Word) (h : s.sp.toNat < 16) : State :=
  { s with stack := s.stack.set s.sp.toNat a, sp := s.sp + 1 }

/-- `SP <- SP - 1`, for the pop. -/
def State.dropTop (s : State) : State := { s with sp := s.sp - 1 }

/-! ### Outcomes (spec/40_step_loop.md R85) -/

/-- `advance 2`; PC is 16 bits wide, and the sum wraps only where no fetch succeeds (R85; log 19). -/
def State.advance2 (s : State) : State := s.setPc (s.pc + 2)

/-- `advance 4`, a satisfied skip (R87). -/
def State.advance4 (s : State) : State := s.setPc (s.pc + 4)

/-- The outcome of a skip instruction (R87). -/
def State.skipIf (s : State) (c : Bool) : State := if c then s.advance4 else s.advance2

/-! ### Halting and reporting: the spec's only exception mechanism (spec/60_exceptions.md R140, R142, R143).
There is no trap entry and no return from one (R148, R149): HALTED is never left. -/

/-- `raise Halt(c)` with the tick's instruction word `w` (R140). PC stays. -/
def State.raiseHalt (s : State) (c : HaltCause) (w : Word) : State :=
  { s with rs := .halted, haltCause := c, faultPc := s.pc, faultWord := w }

/-- The halt of a sampled close request, which writes RS and HALT_CAUSE only (R140; spec/40_step_loop.md R81). -/
def State.haltOnClose (s : State) : State := { s with rs := .halted, haltCause := .closeRequested }

/-- `report(STACK_OVERFLOW)` (R142). -/
def State.reportOverflow (s : State) (w : Word) : State :=
  { s with diagOvf := true, faultPc := s.pc, faultWord := w }

/-- `report(STACK_UNDERFLOW)` (R142). -/
def State.reportUnderflow (s : State) (w : Word) : State :=
  { s with diagUnf := true, faultPc := s.pc, faultWord := w }

/-- What `stack_fault(c)` does after the report, by STACK_FAULT_POLICY (spec/41_control_transfer.md R96). -/
def State.afterReport (s : State) (c : HaltCause) (w : Word) : State :=
  match s.params.stackFaultPolicy with
  | .halt => s.raiseHalt c w
  | .continues => s.advance2

/-- `stack_fault(STACK_OVERFLOW)` (R96). -/
def State.overflowFault (s : State) (w : Word) : State := (s.reportOverflow w).afterReport .stackOverflow w

/-- `stack_fault(STACK_UNDERFLOW)` (R96). -/
def State.underflowFault (s : State) (w : Word) : State := (s.reportUnderflow w).afterReport .stackUnderflow w

/-- `CheckRange` up to `hi` and then the instruction's effect `t`, or the halt with none of it (R145;
spec/20_memory.md R54, R55). -/
def State.withRange (s : State) (hi : Nat) (w : Word) (t : State) : State :=
  if inRange hi then t else s.raiseHalt .outOfRangeAddress w

/-! ### Display surface (spec/45_display.md R125, R126) -/

/-- `clear()` (R126). -/
def clearedDisplay : Display := Vector.replicate 64 (Vector.replicate 32 false)

/-- `DISP[px][py]`. -/
def Display.pixel (d : Display) (px : Fin 64) (py : Fin 32) : Bool := d[px.val][py.val]

/-- `togglePixel(px, py)`: the grid after the flip, and whether the pixel was set before it (R125). -/
def Display.togglePixel (d : Display) (px : Fin 64) (py : Fin 32) : Display × Bool :=
  (d.set px.val (d[px.val].set py.val (!d.pixel px py)), d.pixel px py)

/-- Pixels toggled in list order; the Boolean is `collide`, set once any of them was set before its flip (R129). -/
def Display.toggleAll : Display → Bool → List (Fin 64 × Fin 32) → Display × Bool
  | d, collide, [] => (d, collide)
  | d, collide, p :: ps =>
    Display.toggleAll (Display.togglePixel d p.1 p.2).1 (collide || (Display.togglePixel d p.1 p.2).2) ps

def State.setDisp (s : State) (d : Display) : State := { s with disp := d }

/-! ### Key vector (spec/46_timers_input.md R130) -/

/-- `KEY[k]` of this tick's sample. -/
def State.keyDown (s : State) (k : Nat) : Bool := s.keys.getLsbD k

/-- The least k in 0..15 with `KEY[k]`; none when `anyKey()` is false (R130). -/
def State.firstKey (s : State) : Option Nat := (List.range 16).find? (fun k => s.keyDown k)

/-! ### Parts of the step loop (spec/40_step_loop.md R77) -/

/-- The poll (R80): the collaborators' next inputs. When `script` has none left, the key and close levels
hold and the draw is free (log 10, log 11). -/
def State.poll (s : State) : State :=
  match s.script with
  | [] => { s with draw := Config.freeDraw s.drawCount, drawCount := s.drawCount + 1 }
  | t :: rest => { s with keys := t.keys, closeReq := t.closeReq, draw := t.draw, script := rest }

/-- `Fetch(PC)` (spec/20_memory.md R49): none where PC + 1 is above 0xFFF. -/
def State.fetch (s : State) : Option Word :=
  if inRange (s.pc.toNat + 1) then
    some (wordOfBytes (s.readByte s.pc.toNat) (s.readByte (s.pc.toNat + 1)))
  else none

/-- A timer one tick later: never below 0 (R88). -/
def timerAfter (x : Byte) : Byte := if x.toNat > 0 then x - 1 else x

/-- The timers' decrement (R88, R89). -/
def State.tickTimers (s : State) : State :=
  { s with
    dt := timerAfter s.dt
    st := if s.params.stDecrements then timerAfter s.st else s.st }

/-- `emit present` (R93; log 16). -/
def State.present (s : State) : State := { s with frames := s.frames + 1 }

/-- The end of a tick whose instruction was executed: no timers and no `present` after a halt, no timers
while waiting for a key (R77, R88, R93; spec/60_exceptions.md R140). -/
def State.endTick (s : State) : State :=
  match s.rs with
  | .halted => s
  | .waitingForKey => s.present
  | .running => s.tickTimers.present

/-! ### Outputs of the block (spec/10_state.md R44) and their codes -/

/-- The 2-bit encoding of RS (R39). -/
def RunState.code : RunState → BitVec 2
  | .running => 0
  | .waitingForKey => 1
  | .halted => 2

/-- The 3-bit encoding of HALT_CAUSE (spec/60_exceptions.md R138). -/
def HaltCause.code : HaltCause → BitVec 3
  | .none => 0
  | .sentinel => 1
  | .closeRequested => 2
  | .unrecognizedInstruction => 3
  | .outOfRangeAddress => 4
  | .stackOverflow => 5
  | .stackUnderflow => 6
  | .romTooLarge => 7

/-- The output ports, valid between ticks (R44). -/
structure Outputs where
  disp : Display
  st : Byte
  rs : BitVec 2
  haltCause : BitVec 3
  faultPc : Word
  faultWord : Word
  diagOvf : Bool
  diagUnf : Bool
  deriving DecidableEq, Repr

def State.outputs (s : State) : Outputs :=
  { disp := s.disp, st := s.st, rs := s.rs.code, haltCause := s.haltCause.code, faultPc := s.faultPc,
    faultWord := s.faultWord, diagOvf := s.diagOvf, diagUnf := s.diagUnf }

end Sys2Proof.Machine
end

