-- ==== Sys2Proof/Machine/Operands.lean ====
section
/-! DEFINITION. The operand forms: the one addressing mode, I plus an offset computed without reduction
(spec/44_index_memory.md, spec/20_memory.md R52, R54), and the ways a register value selects a key, a glyph,
a jump target and a pixel. -/

namespace Sys2Proof.Machine

/-- `I + k`, not reduced (R54). -/
def addrAt (s : State) (k : Nat) : Nat := s.i.toNat + k

/-- `V[x] mod 16`, the key a register selects (spec/46_timers_input.md R131). -/
def keyOf (s : State) (x : Reg) : Nat := (s.getV x).toNat % 16

/-- `(V[x] mod 16) * 5`, the address of a glyph (spec/44_index_memory.md R121). -/
def glyphAddr (s : State) (x : Reg) : Word := BitVec.ofNat 16 ((s.getV x).toNat % 16 * 5)

/-- A 12-bit address zero-extended to 16 bits (spec/30_encoding.md R64). -/
def address (nnn : BitVec 12) : Word := nnn.setWidth 16

/-- `nnn + V[0]`, not reduced (spec/41_control_transfer.md R100). -/
def offsetAddress (s : State) (nnn : BitVec 12) : Word := nnn.setWidth 16 + (s.getV 0).setWidth 16

/-- `(I + V[x]) mod 4096` (spec/44_index_memory.md R120). -/
def indexPlus (s : State) (x : Reg) : Word := BitVec.ofNat 16 ((s.i.toNat + (s.getV x).toNat) % 4096)

/-- `v / 100`, `(v / 10) mod 10`, `v mod 10` (R122). -/
def bcdDigits (v : Byte) : List Byte :=
  [BitVec.ofNat 8 (v.toNat / 100), BitVec.ofNat 8 (v.toNat / 10 % 10), BitVec.ofNat 8 (v.toNat % 10)]

/-- `(px0 + c) mod 64` (spec/45_display.md R129). -/
def column (px0 : Byte) (c : Nat) : Fin 64 := ⟨(px0.toNat + c) % 64, Nat.mod_lt _ (by decide)⟩

/-- `(py0 + r) mod 32` (R129). -/
def row (py0 : Byte) (r : Nat) : Fin 32 := ⟨(py0.toNat + r) % 32, Nat.mod_lt _ (by decide)⟩

/-- The pixels of one sprite row: column c of 0..7 for each 1 bit, most significant bit first (R129). -/
def rowPixels (px0 py0 : Byte) (r : Nat) (b : Byte) : List (Fin 64 × Fin 32) :=
  ((List.range 8).filter (fun c => b.getLsbD (7 - c))).map (fun c => (column px0 c, row py0 r))

/-- The pixels an n-row sprite toggles, in the order of R129's loops: rows r = 0..n-1, byte r from I + r. -/
def spritePixels (s : State) (x y : Reg) (n : Nat) : List (Fin 64 × Fin 32) :=
  (List.range n).flatMap (fun r => rowPixels (s.getV x) (s.getV y) r (s.readByte (addrAt s r)))

end Sys2Proof.Machine
end

