-- ==== Sys2Proof/Machine/Flags.lean ====
section
/-! DEFINITION. The values VF gets as a flag (spec/10_state.md R27) and the order in which VF and the
destination are written (R28). -/

namespace Sys2Proof.Machine

/-- A Boolean written into a register is 1 for true and 0 for false (spec/00_scope.md R9). -/
def flagByte (b : Bool) : Byte := if b then 1 else 0

/-- `(V[x] + V[y] > 255) ? 1 : 0` (spec/43_alu.md R113). -/
def carryFlag (a b : Byte) : Byte := flagByte (decide (a.toNat + b.toNat > 255))

/-- `(a - b >= 0) ? 1 : 0` over signed integers (R114, R116): 1 = no borrow. -/
def noBorrowFlag (a b : Byte) : Byte := flagByte (decide ((a.toNat : Int) - (b.toNat : Int) ≥ 0))

/-- The bit shifted out by SHR, bit 0 (R115). -/
def shiftedOutLow (a : Byte) : Byte := a &&& 1

/-- The bit shifted out by SHL, bit 7 (R117). -/
def shiftedOutHigh (a : Byte) : Byte := flagByte (decide (a &&& 0x80 ≠ 0))

/-- VF and `V[x]` written by an operation that computes its result before it writes VF (R113, R114, R116).
Only x = 15 tells the rules of XF_DEST_RULE apart (spec/10_state.md R28). -/
def State.writeResult (s : State) (x : Reg) (flag result : Byte) : State :=
  match s.params.xfDestRule with
  | .sequential => (s.setV regF flag).setV x result
  | .snapshot => (s.setV regF flag).setV x result
  | .flagWins => (s.setV x result).setV regF flag

/-- VF and `V[x]` written by a shift, whose second statement under `sequential` reads `V[x]` after the write
of VF (R115, R117, R28). -/
def State.writeShift (s : State) (x : Reg) (flag : Byte) (shift : Byte → Byte) : State :=
  match s.params.xfDestRule with
  | .sequential => (s.setV regF flag).setV x (shift ((s.setV regF flag).getV x))
  | .snapshot => (s.setV regF flag).setV x (shift (s.getV x))
  | .flagWins => (s.setV x (shift (s.getV x))).setV regF flag

end Sys2Proof.Machine
end

