-- ==== Sys2Proof/Machine/Alu.lean ====
section
/-! DEFINITION. Register loads, the ALU and RND (spec/43_alu.md). Each ends with `advance 2`. -/

namespace Sys2Proof.Machine

/-- `LD Vx, kk` (R107). -/
def execLdImm (x : Reg) (kk : Byte) (s : State) : Host.Outcome State Fault Refusal :=
  .next (s.setV x kk).advance2

/-- `ADD Vx, kk` (R108): no flag. -/
def execAddImm (x : Reg) (kk : Byte) (s : State) : Host.Outcome State Fault Refusal :=
  .next (s.setV x (s.getV x + kk)).advance2

/-- `LD Vx, Vy` (R109). -/
def execLdReg (x y : Reg) (s : State) : Host.Outcome State Fault Refusal :=
  .next (s.setV x (s.getV y)).advance2

/-- `OR Vx, Vy` (R110): VF unchanged. -/
def execOrReg (x y : Reg) (s : State) : Host.Outcome State Fault Refusal :=
  .next (s.setV x (s.getV x ||| s.getV y)).advance2

/-- `AND Vx, Vy` (R111): VF unchanged. -/
def execAndReg (x y : Reg) (s : State) : Host.Outcome State Fault Refusal :=
  .next (s.setV x (s.getV x &&& s.getV y)).advance2

/-- `XOR Vx, Vy` (R112): VF unchanged. -/
def execXorReg (x y : Reg) (s : State) : Host.Outcome State Fault Refusal :=
  .next (s.setV x (s.getV x ^^^ s.getV y)).advance2

/-- `ADD Vx, Vy` (R113). -/
def execAddReg (x y : Reg) (s : State) : Host.Outcome State Fault Refusal :=
  .next (s.writeResult x (carryFlag (s.getV x) (s.getV y)) (s.getV x + s.getV y)).advance2

/-- `SUB Vx, Vy` (R114). -/
def execSubReg (x y : Reg) (s : State) : Host.Outcome State Fault Refusal :=
  .next (s.writeResult x (noBorrowFlag (s.getV x) (s.getV y)) (s.getV x - s.getV y)).advance2

/-- `SHR Vx, Vy` (R115): the source is `V[x]`; `V[y]` is not read. -/
def execShr (x _y : Reg) (s : State) : Host.Outcome State Fault Refusal :=
  .next (s.writeShift x (shiftedOutLow (s.getV x)) (fun a => a >>> 1)).advance2

/-- `SUBN Vx, Vy` (R116). -/
def execSubn (x y : Reg) (s : State) : Host.Outcome State Fault Refusal :=
  .next (s.writeResult x (noBorrowFlag (s.getV y) (s.getV x)) (s.getV y - s.getV x)).advance2

/-- `SHL Vx, Vy` (R117): the source is `V[x]`; `V[y]` is not read. -/
def execShl (x _y : Reg) (s : State) : Host.Outcome State Fault Refusal :=
  .next (s.writeShift x (shiftedOutHigh (s.getV x)) (fun a => a <<< 1)).advance2

/-- `RND Vx, kk` (R118): the tick's draw under the mask (log 11). -/
def execRnd (x : Reg) (kk : Byte) (s : State) : Host.Outcome State Fault Refusal :=
  .next (s.setV x (s.draw &&& kk)).advance2

end Sys2Proof.Machine
end

