-- ==== Sys2Proof/Machine/Blitter.lean ====
section
/-! DEFINITION. The display instructions (spec/45_display.md). -/

namespace Sys2Proof.Machine

/-- `CLS` (R128). -/
def execCls (s : State) : Host.Outcome State Fault Refusal :=
  .next (s.setDisp clearedDisplay).advance2

/-- The effect of a `DRW` whose bytes exist (R129): the coordinates are read before VF is written. -/
def State.blit (s : State) (x y : Reg) (n : Nat) : State :=
  (s.setDisp (s.disp.toggleAll false (spritePixels s x y n)).1).setV regF
    (flagByte (s.disp.toggleAll false (spritePixels s x y n)).2)

/-- `DRW Vx, Vy, n` (R129). With n = 0 no address is checked and no byte read (D26). -/
def execDrw (x y : Reg) (n : Fin 16) (s : State) : Host.Outcome State Fault Refusal :=
  if n.val = 0 then .next (s.blit x y 0).advance2
  else .next (s.withRange (addrAt s (n.val - 1)) (encode (.drw x y n)) (s.blit x y n.val).advance2)

end Sys2Proof.Machine
end

