-- ==== Sys2Proof/Machine/Control.lean ====
section
/-! DEFINITION. Control transfer (spec/41_control_transfer.md). These instructions write the true target into
PC and the loop adds nothing (spec/40_step_loop.md R86). -/

namespace Sys2Proof.Machine

/-- `RET` (R97). With SP above 16 there is no cell to pop (log 14). -/
def execRet (s : State) : Host.Outcome State Fault Refusal :=
  if s.sp = 0 then .next (s.underflowFault (encode .ret))
  else if h : s.dropTop.sp.toNat < 16 then .next (s.dropTop.setPc s.stack[s.dropTop.sp.toNat])
  else .fault .stackPointerBeyondStack

/-- `JP nnn` (R98). -/
def execJp (nnn : BitVec 12) (s : State) : Host.Outcome State Fault Refusal :=
  .next (s.setPc (address nnn))

/-- `CALL nnn` (R99). With SP above 15 there is no cell to push to (log 14). -/
def execCall (nnn : BitVec 12) (s : State) : Host.Outcome State Fault Refusal :=
  if s.sp = 15 then .next (s.overflowFault (encode (.call nnn)))
  else if h : s.sp.toNat < 16 then .next ((s.push (s.pc + 2) h).setPc (address nnn))
  else .fault .stackPointerBeyondStack

/-- `JP V0, nnn` (R100). -/
def execJpV0 (nnn : BitVec 12) (s : State) : Host.Outcome State Fault Refusal :=
  .next (s.setPc (offsetAddress s nnn))

end Sys2Proof.Machine
end

