-- ==== Sys2Proof/Machine/IndexMemory.lean ====
section
/-! DEFINITION. The index register and memory transfers (spec/44_index_memory.md). A memory instruction checks
its whole range before any access (spec/20_memory.md R55) and leaves I unchanged. -/

namespace Sys2Proof.Machine

/-- `LD I, nnn` (R119). -/
def execLdI (nnn : BitVec 12) (s : State) : Host.Outcome State Fault Refusal :=
  .next (s.setI (address nnn)).advance2

/-- `ADD I, Vx` (R120): modulo 4096, never a fault. -/
def execAddI (x : Reg) (s : State) : Host.Outcome State Fault Refusal :=
  .next (s.setI (indexPlus s x)).advance2

/-- `LD I, Fx` (R121). -/
def execLdIFont (x : Reg) (s : State) : Host.Outcome State Fault Refusal :=
  .next (s.setI (glyphAddr s x)).advance2

/-- `LD B, Vx` (R122). -/
def execLdBcd (x : Reg) (s : State) : Host.Outcome State Fault Refusal :=
  .next (s.withRange (addrAt s 2) (encode (.ldBcd x))
    (s.setMem (s.mem.writeBytes (addrAt s 0) (bcdDigits (s.getV x)))).advance2)

/-- `LD [I], Vx` (R123). -/
def execStRegs (x : Reg) (s : State) : Host.Outcome State Fault Refusal :=
  .next (s.withRange (addrAt s x.val) (encode (.stRegs x))
    (s.setMem (s.mem.writeBytes (addrAt s 0) (s.firstRegs (x.val + 1)))).advance2)

/-- `LD Vx, [I]` (R124). -/
def execLdRegs (x : Reg) (s : State) : Host.Outcome State Fault Refusal :=
  .next (s.withRange (addrAt s x.val) (encode (.ldRegs x))
    (s.setRegs (s.loadedRegs (addrAt s 0) (x.val + 1))).advance2)

end Sys2Proof.Machine
end

