-- ==== Sys2Proof/Machine/TimersInput.lean ====
section
/-! DEFINITION. Timers and keypad input (spec/46_timers_input.md). The tick's own timer decrement follows the
instruction (spec/40_step_loop.md R88; `State.endTick`). -/

namespace Sys2Proof.Machine

/-- `SKP Vx` (R131). -/
def execSkp (x : Reg) (s : State) : Host.Outcome State Fault Refusal :=
  .next (s.skipIf (s.keyDown (keyOf s x)))

/-- `SKNP Vx` (R132). -/
def execSknp (x : Reg) (s : State) : Host.Outcome State Fault Refusal :=
  .next (s.skipIf (!s.keyDown (keyOf s x)))

/-- `LD Vx, DT` (R133). -/
def execLdVxDt (x : Reg) (s : State) : Host.Outcome State Fault Refusal :=
  .next (s.setV x s.dt).advance2

/-- `LD DT, Vx` (R134). -/
def execLdDtVx (x : Reg) (s : State) : Host.Outcome State Fault Refusal :=
  .next (s.setDt (s.getV x)).advance2

/-- `LD ST, Vx` (R135). -/
def execLdStVx (x : Reg) (s : State) : Host.Outcome State Fault Refusal :=
  .next (s.setSt (s.getV x)).advance2

/-- `LD Vx, K` (R136): with no key pressed, the outcome `wait` leaves PC where it is. -/
def execLdVxK (x : Reg) (s : State) : Host.Outcome State Fault Refusal :=
  match s.firstKey with
  | some k => .next ((s.setV x (BitVec.ofNat 8 k)).setRs .running).advance2
  | none => .next (s.setRs .waitingForKey)

end Sys2Proof.Machine
end

