-- ==== Sys2Proof/Machine/Tick.lean ====
section
/-! DEFINITION. One tick of the step loop (spec/40_step_loop.md R77), in the order of its checks
(spec/60_exceptions.md R146). -/

namespace Sys2Proof.Machine

/-- Execute one decoded instruction and end the tick (R84, R85, R88, R93). -/
def runInstr (i : Instr) (s : State) : Host.Outcome State Fault Refusal :=
  match exec i s with
  | .next t => .next t.endTick
  | .fault f => .fault f
  | .refused r => .refused r

/-- The sentinel and unrecognized-word checks, then execution, of a fetched word (R83; spec/30_encoding.md R70, R71). -/
def runWord (w : Word) (s : State) : Host.Outcome State Fault Refusal :=
  if w = 0 then .next (s.raiseHalt .sentinel w)
  else
    match decode w with
    | .unrecognized => .next (s.raiseHalt .unrecognizedInstruction w)
    | .instr i => runInstr i s

/-- A tick after its poll: close check, fetch, and the rest (R81; spec/20_memory.md R49). -/
def afterPoll (s : State) : Host.Outcome State Fault Refusal :=
  if s.closeReq then .next s.haltOnClose
  else
    match s.fetch with
    | none => .next (s.raiseHalt .outOfRangeAddress 0)
    | some w => runWord w s

/-- `tick()` (R77). In HALTED nothing happens, the poll included (R82). -/
def tick (s : State) : Host.Outcome State Fault Refusal :=
  match s.rs with
  | .halted => .next s
  | .running => afterPoll s.poll
  | .waitingForKey => afterPoll s.poll

/-- PC where an instruction can be fetched (R49), else the reset vector. -/
def fetchablePc (pc : Word) : Word := if inRange (pc.toNat + 1) then pc else 0x200

/-- The next poll presents no close request. -/
def noCloseNext : List TickInput → List TickInput
  | [] => []
  | t :: rest => { t with closeReq := false } :: rest

/-- `s` ready to run the word `w` in its next tick: the word's two bytes at PC, high byte first, and
nothing of the loop in the way (a PC with no bytes, HALTED, a close request). -/
def placeWord (s : State) (w : Word) : State :=
  { s with
    pc := fetchablePc s.pc
    mem := s.mem.writeBytes (fetchablePc s.pc).toNat [highByte w, lowByte w]
    rs := match s.rs with
      | .halted => .running
      | .running => .running
      | .waitingForKey => .waitingForKey
    haltCause := match s.rs with
      | .halted => .none
      | .running => s.haltCause
      | .waitingForKey => s.haltCause
    closeReq := false
    script := noCloseNext s.script }

end Sys2Proof.Machine
end

