-- ==== Sys2Proof/Machine/Step.lean ====
section
/-! DEFINITION. The step of the machine is one tick, and the placing of a word to run next (log 1). -/

namespace Sys2Proof.Machine

def step (s : State) : Host.Outcome State Fault Refusal := tick s

/-- The state whose next step fetches and runs the word `w` of the opcode table. It stands for the load of a
program, which happens outside the machine (spec/70_reset_and_hazards.md R158; log 1). -/
def State.withFetchWord (s : State) (nbits w : Nat) : State := placeWord s (tableWord nbits w)

end Sys2Proof.Machine
end

