-- ==== Sys2Proof/Machine/Boot.lean ====
section
/-! DEFINITION. The making of one instance before its first tick (spec/70_reset_and_hazards.md R157 to R160)
for every value of the launch parameters (spec/00_scope.md R7, spec/10_state.md R45; D14, D15). -/

namespace Sys2Proof.Machine

/-- The INIT_* parameters (R45): contents the document does not state. `mem` lists the bytes of INIT_MEM
that are not what an unlisted address reads as; entries above 0xFFF are no part of memory. -/
structure LaunchContents where
  v : Vector Byte 16
  /-- INIT_I is in 0..4095. -/
  i : BitVec 12
  dt : Byte
  st : Byte
  stack : Vector Word 16
  disp : Display
  mem : List Host.Cell
  deriving DecidableEq, Repr

/-- The recommended contents: 0 and `false` (R45; log 2 to 7). -/
def LaunchContents.zero : LaunchContents :=
  { v := Vector.replicate 16 0
    i := 0
    dt := 0
    st := 0
    stack := Vector.replicate 16 0
    disp := clearedDisplay
    mem := [] }

/-- INIT_MEM as a memory in canonical form. -/
def initialMemory : List Host.Cell → Memory
  | [] => []
  | (a, x) :: cells => if a < 4096 then Memory.write (initialMemory cells) a x else initialMemory cells

/-- The 80 font bytes at 0x000..0x04F (R157 step 2, R160). -/
def writeFont (font : Vector Byte 80) (m : Memory) : Memory := m.writeBytes 0 font.toList

/-- The largest ROM image: 4096 - 0x200 bytes (R7 `ROM_MAX`, R159). -/
def romMax : Nat := 3584

/-- The ROM image copied verbatim from 0x200 (R158), or not at all when it is too long (R159). -/
def loadRom (rom : List Byte) (m : Memory) : Memory :=
  if rom.length ≤ romMax then m.writeBytes 0x200 rom else m

/-- One instance, ready for its first tick (R157), or halted with ROM_TOO_LARGE (R159; log 20). `script` is what
the collaborators will present at its polls (log 10). -/
def powerOn (params : Config.Params) (font : Vector Byte 80) (ini : LaunchContents) (rom : List Byte)
    (script : List TickInput) : State :=
  { v := ini.v
    i := ini.i.setWidth 16
    pc := 0x200
    sp := 0
    stack := ini.stack
    dt := ini.dt
    st := ini.st
    rs := if rom.length ≤ romMax then .running else .halted
    haltCause := if rom.length ≤ romMax then .none else .romTooLarge
    faultPc := 0
    faultWord := 0
    diagOvf := false
    diagUnf := false
    disp := ini.disp
    mem := loadRom rom (writeFont font (initialMemory ini.mem))
    keys := 0
    closeReq := false
    draw := 0
    script := script
    drawCount := 0
    frames := 0
    params := params }

/-- The spec's default FONT as the parameter's type (R160; log 8). -/
def defaultFontBytes : Vector Byte 80 := ⟨defaultFont.toArray, by decide⟩

end Sys2Proof.Machine
end

