-- ==== Sys2Proof/Safety.lean ====
section
/-! DEFINITION. The terms claims are stated in: what counts as a correct run (spec/60_exceptions.md R139), the
invariant of the state, and what an instruction leaves unchanged. -/

namespace Sys2Proof.Machine

/-! ### The end of a run -/

/-- The run ended normally (spec/00_scope.md R18; R139). -/
def State.EndedNormally (s : State) : Prop :=
  s.rs = .halted ∧ (s.haltCause = .sentinel ∨ s.haltCause = .closeRequested)

/-- The premise of a claim that a program ran correctly (R139): a normal end and no reported stack fault. -/
def State.RanCorrectly (s : State) : Prop :=
  s.EndedNormally ∧ s.diagOvf = false ∧ s.diagUnf = false

/-! ### Invariants -/

/-- What holds of the state between ticks: I in 0..4095 (spec/10_state.md R31), PC at most 0x10FE (R33), SP in
0..15 (R36), held return addresses at most 0x1000 (R33), memory in canonical form, and status registers that
agree with RS (R40; spec/60_exceptions.md R138, R142). -/
structure State.Inv (s : State) : Prop where
  index : s.i.toNat ≤ 4095
  pcBound : s.pc.toNat ≤ 0x10FE
  spBound : s.sp.toNat ≤ 15
  returns : ∀ k : Fin 16, k.val < s.sp.toNat → s.stack[k.val].toNat ≤ 0x1000
  memory : s.mem.wf = true
  halts : s.rs = .halted ↔ s.haltCause ≠ .none
  overflow : s.haltCause = .stackOverflow → s.diagOvf = true
  underflow : s.haltCause = .stackUnderflow → s.diagUnf = true

/-- While RS = WAITING_FOR_KEY, the word at PC is an `Fx0A` (spec/40_step_loop.md R92). -/
def State.WaitInv (s : State) : Prop :=
  s.rs = .waitingForKey → ∃ w x, s.fetch = some w ∧ decode w = .instr (.ldVxK x)

/-! ### Frames: `t` against the state `s` before it -/

def KeepsRegs (s t : State) (written : List Reg) : Prop := ∀ r : Reg, r ∉ written → t.getV r = s.getV r

def KeepsIndex (s t : State) : Prop := t.i = s.i

def KeepsPc (s t : State) : Prop := t.pc = s.pc

def KeepsStack (s t : State) : Prop := t.sp = s.sp ∧ ∀ k : Fin 16, t.stack[k.val] = s.stack[k.val]

def KeepsTimers (s t : State) : Prop := t.dt = s.dt ∧ t.st = s.st

/-- RS and the status registers of R40. -/
def KeepsStatus (s t : State) : Prop :=
  t.rs = s.rs ∧ t.haltCause = s.haltCause ∧ t.faultPc = s.faultPc ∧ t.faultWord = s.faultWord ∧
  t.diagOvf = s.diagOvf ∧ t.diagUnf = s.diagUnf

def KeepsDisplay (s t : State) : Prop := ∀ (px : Fin 64) (py : Fin 32), t.disp.pixel px py = s.disp.pixel px py

/-- Every byte of memory. -/
def KeepsMemory (s t : State) : Prop := ∀ a : Nat, t.readByte a = s.readByte a

/-- Inputs, the `present` count and the parameters. -/
def KeepsEnvironment (s t : State) : Prop :=
  t.keys = s.keys ∧ t.closeReq = s.closeReq ∧ t.draw = s.draw ∧ t.script = s.script ∧
  t.drawCount = s.drawCount ∧ t.frames = s.frames ∧ t.params = s.params

/-- Nothing but PC and the general registers in `written` changed. -/
def OnlyRegs (s t : State) (written : List Reg) : Prop :=
  KeepsRegs s t written ∧ KeepsIndex s t ∧ KeepsStack s t ∧ KeepsTimers s t ∧ KeepsStatus s t ∧
  KeepsDisplay s t ∧ KeepsMemory s t ∧ KeepsEnvironment s t

/-- Nothing but PC changed. -/
def OnlyPc (s t : State) : Prop := OnlyRegs s t []

/-- Nothing but PC and I changed. -/
def OnlyIndex (s t : State) : Prop :=
  KeepsRegs s t [] ∧ KeepsStack s t ∧ KeepsTimers s t ∧ KeepsStatus s t ∧ KeepsDisplay s t ∧
  KeepsMemory s t ∧ KeepsEnvironment s t

/-- Nothing but PC and memory changed; a statement adds which bytes. -/
def OnlyMemory (s t : State) : Prop :=
  KeepsRegs s t [] ∧ KeepsIndex s t ∧ KeepsStack s t ∧ KeepsTimers s t ∧ KeepsStatus s t ∧
  KeepsDisplay s t ∧ KeepsEnvironment s t

/-- Nothing but PC, the display and the registers in `written` changed. -/
def OnlyDisplay (s t : State) (written : List Reg) : Prop :=
  KeepsRegs s t written ∧ KeepsIndex s t ∧ KeepsStack s t ∧ KeepsTimers s t ∧ KeepsStatus s t ∧
  KeepsMemory s t ∧ KeepsEnvironment s t

/-- Nothing but PC, SP and the stack changed. -/
def OnlyStack (s t : State) : Prop :=
  KeepsRegs s t [] ∧ KeepsIndex s t ∧ KeepsTimers s t ∧ KeepsStatus s t ∧ KeepsDisplay s t ∧
  KeepsMemory s t ∧ KeepsEnvironment s t

/-- Nothing but PC and the timers changed. -/
def OnlyTimers (s t : State) : Prop :=
  KeepsRegs s t [] ∧ KeepsIndex s t ∧ KeepsStack s t ∧ KeepsStatus s t ∧ KeepsDisplay s t ∧
  KeepsMemory s t ∧ KeepsEnvironment s t

/-- Nothing but PC, RS and the registers in `written` changed. -/
def OnlyRegsAndRs (s t : State) (written : List Reg) : Prop :=
  KeepsRegs s t written ∧ KeepsIndex s t ∧ KeepsStack s t ∧ KeepsTimers s t ∧
  (t.haltCause = s.haltCause ∧ t.faultPc = s.faultPc ∧ t.faultWord = s.faultWord ∧
   t.diagOvf = s.diagOvf ∧ t.diagUnf = s.diagUnf) ∧
  KeepsDisplay s t ∧ KeepsMemory s t ∧ KeepsEnvironment s t

/-- Every register, PC, the stack, the timers, the display and memory as before: what a precise halt leaves
(spec/60_exceptions.md R141). -/
def KeepsArchitecture (s t : State) : Prop :=
  KeepsRegs s t [] ∧ KeepsIndex s t ∧ KeepsPc s t ∧ KeepsStack s t ∧ KeepsTimers s t ∧ KeepsDisplay s t ∧
  KeepsMemory s t

/-- `t` is `s` halted by `raise Halt(c)` with word `w`, and nothing else changed (R140). -/
def HaltedWith (s t : State) (c : HaltCause) (w : Word) : Prop :=
  t.rs = .halted ∧ t.haltCause = c ∧ t.faultPc = s.pc ∧ t.faultWord = w ∧
  t.diagOvf = s.diagOvf ∧ t.diagUnf = s.diagUnf ∧ KeepsArchitecture s t ∧ KeepsEnvironment s t

/-- `advance 2` and `advance 4` of R77, modulo 65536. -/
def Advanced (s t : State) (bytes : Nat) : Prop := t.pc.toNat = (s.pc.toNat + bytes) % 65536

/-! ### What the rules say an instruction may write -/

/-- The registers an instruction writes: the table of spec/10_state.md R26. -/
def writesReg : Instr → Reg → Bool
  | .ldImm x _, r => r == x
  | .addImm x _, r => r == x
  | .ldReg x _, r => r == x
  | .orReg x _, r => r == x
  | .andReg x _, r => r == x
  | .xorReg x _, r => r == x
  | .rnd x _, r => r == x
  | .ldVxDt x, r => r == x
  | .ldVxK x, r => r == x
  | .addReg x _, r => r == x || r == regF
  | .subReg x _, r => r == x || r == regF
  | .shr x _, r => r == x || r == regF
  | .subn x _, r => r == x || r == regF
  | .shl x _, r => r == x || r == regF
  | .drw _ _ _, r => r == regF
  | .ldRegs x, r => decide (r.val ≤ x.val)
  | .cls, _ => false
  | .ret, _ => false
  | .jp _, _ => false
  | .call _, _ => false
  | .seImm _ _, _ => false
  | .sneImm _ _, _ => false
  | .seReg _ _, _ => false
  | .sneReg _ _, _ => false
  | .ldI _, _ => false
  | .jpV0 _, _ => false
  | .skp _, _ => false
  | .sknp _, _ => false
  | .ldDtVx _, _ => false
  | .ldStVx _, _ => false
  | .addI _, _ => false
  | .ldIFont _, _ => false
  | .ldBcd _, _ => false
  | .stRegs _, _ => false

/-- The instructions that set VF as a flag, with their destination (spec/10_state.md R27); `Dxyn` has none but VF. -/
def flagDest : Instr → Option Reg
  | .addReg x _ => some x
  | .subReg x _ => some x
  | .shr x _ => some x
  | .subn x _ => some x
  | .shl x _ => some x
  | .cls => none
  | .ret => none
  | .jp _ => none
  | .call _ => none
  | .seImm _ _ => none
  | .sneImm _ _ => none
  | .seReg _ _ => none
  | .ldImm _ _ => none
  | .addImm _ _ => none
  | .ldReg _ _ => none
  | .orReg _ _ => none
  | .andReg _ _ => none
  | .xorReg _ _ => none
  | .sneReg _ _ => none
  | .ldI _ => none
  | .jpV0 _ => none
  | .rnd _ _ => none
  | .drw _ _ _ => none
  | .skp _ => none
  | .sknp _ => none
  | .ldVxDt _ => none
  | .ldVxK _ => none
  | .ldDtVx _ => none
  | .ldStVx _ => none
  | .addI _ => none
  | .ldIFont _ => none
  | .ldBcd _ => none
  | .stRegs _ => none
  | .ldRegs _ => none

/-- Sprite bit (r, c) of the bytes at I is 1 and lands on pixel (px, py) for some r < n, c < 8
(spec/45_display.md R129). -/
def SpriteCovers (s : State) (x y : Reg) (n : Nat) (px : Fin 64) (py : Fin 32) : Prop :=
  ∃ r c : Nat, r < n ∧ c < 8 ∧ (s.readByte (s.i.toNat + r)).getLsbD (7 - c) = true ∧
    px.val = ((s.getV x).toNat + c) % 64 ∧ py.val = ((s.getV y).toNat + r) % 32

/-- The instruction's own halting condition (spec/60_exceptions.md R146 item 5), `none` when it has none. A
stack fault halts only under the policy `halt` (R143). -/
def ownCondition (i : Instr) (s : State) : HaltCause :=
  match i with
  | .ret => if s.sp = 0 ∧ s.params.stackFaultPolicy = .halt then .stackUnderflow else .none
  | .call _ => if s.sp = 15 ∧ s.params.stackFaultPolicy = .halt then .stackOverflow else .none
  | .drw _ _ n => if 0 < n.val ∧ 0xFFF < s.i.toNat + n.val - 1 then .outOfRangeAddress else .none
  | .ldBcd _ => if 0xFFF < s.i.toNat + 2 then .outOfRangeAddress else .none
  | .stRegs x => if 0xFFF < s.i.toNat + x.val then .outOfRangeAddress else .none
  | .ldRegs x => if 0xFFF < s.i.toNat + x.val then .outOfRangeAddress else .none
  | .cls => .none
  | .jp _ => .none
  | .seImm _ _ => .none
  | .sneImm _ _ => .none
  | .seReg _ _ => .none
  | .ldImm _ _ => .none
  | .addImm _ _ => .none
  | .ldReg _ _ => .none
  | .orReg _ _ => .none
  | .andReg _ _ => .none
  | .xorReg _ _ => .none
  | .addReg _ _ => .none
  | .subReg _ _ => .none
  | .shr _ _ => .none
  | .subn _ _ => .none
  | .shl _ _ => .none
  | .sneReg _ _ => .none
  | .ldI _ => .none
  | .jpV0 _ => .none
  | .rnd _ _ => .none
  | .skp _ => .none
  | .sknp _ => .none
  | .ldVxDt _ => .none
  | .ldVxK _ => .none
  | .ldDtVx _ => .none
  | .ldStVx _ => .none
  | .addI _ => .none
  | .ldIFont _ => .none

/-- The first condition of R146's list that holds in a tick whose poll left the state `s`, `none` when the
tick does not halt. -/
def haltCondition (s : State) : HaltCause :=
  if s.closeReq then .closeRequested
  else
    match s.fetch with
    | none => .outOfRangeAddress
    | some w =>
      if w = 0 then .sentinel
      else
        match decode w with
        | .unrecognized => .unrecognizedInstruction
        | .instr i => ownCondition i s

/-- The instruction's word has the literal nibbles of its template (spec/30_encoding.md R66). -/
def HasTemplate (i : Instr) (mask lit : Word) : Prop := encode i &&& mask = lit

/-- `s` is not halted, its poll presents no close request, and the word at PC decodes to `i`. -/
def Fetches (s : State) (i : Instr) : Prop :=
  s.rs ≠ .halted ∧ s.poll.closeReq = false ∧ s.pc.toNat + 1 ≤ 0xFFF ∧
  decodeBytes [s.readByte s.pc.toNat, s.readByte (s.pc.toNat + 1)] = .instr i []

/-! ### States a program cannot tell apart -/

/-- Equal but for the return-stack cells at SP and above (spec/10_state.md R37). -/
def SameButDeadStack (s t : State) : Prop :=
  t = { s with stack := t.stack } ∧ ∀ k : Fin 16, k.val < s.sp.toNat → t.stack[k.val] = s.stack[k.val]

/-- Equal but for ST and the parameter ST_DECREMENTS (spec/10_state.md R38: no instruction reads ST). -/
def SameButSound (s t : State) : Prop :=
  t = { s with st := t.st, params := { s.params with stDecrements := t.params.stDecrements } }

end Sys2Proof.Machine
end

