-- ==== Sys2Proof/Certificates/Slice0/Obligations.lean ====
section
/-! DEFINITION. The statements for the provers. Each docstring names the rules it formalises; OBLIGATIONS.json
says which are stated and which derived. -/

open Sys2Proof Sys2Proof.Machine

/-! ### Encoding (spec/30_encoding.md) -/

/-- Words of spec/95_test_vectors.md section 2, as bytes in memory order. -/
def Obligations.SampleWordsDecode : Prop :=
  decodeBytes [0x00, 0xE0] = .instr .cls [] ∧
  decodeBytes [0x1A, 0xBC] = .instr (.jp 0xABC) [] ∧
  decodeBytes [0x3A, 0x5C] = .instr (.seImm 0xA 0x5C) [] ∧
  decodeBytes [0x81, 0x2E] = .instr (.shl 1 2) [] ∧
  decodeBytes [0xDA, 0xBF] = .instr (.drw 0xA 0xB 0xF) [] ∧
  decodeBytes [0xF1, 0x65] = .instr (.ldRegs 1) [] ∧
  decodeBytes [0x51, 0x21] = .unrecognized 0x5121 ∧
  decodeBytes [0x01, 0x23] = .unrecognized 0x0123

/-- Decode and encode agree: no operand bit of any well-formed instruction is dropped. -/
def Obligations.DecodeOfEncodeIsTheInstruction : Prop :=
  ∀ (i : Instr) (rest : List Byte), i.wellFormed = true →
    decode (encode i) = .instr i ∧
    decodeBytes (highByte (encode i) :: lowByte (encode i) :: rest) = .instr i rest

/-- A decoded instruction encodes to the word it was read from. -/
def Obligations.EncodeOfDecodeIsTheWord : Prop :=
  ∀ (w : Word) (i : Instr), decode w = .instr i → encode i = w ∧ i.wellFormed = true

/-- R66: every row of the template list decodes every word it matches, with the operands of R64. -/
def Obligations.EveryTemplateRowDecodes : Prop :=
  ∀ w : Word,
    (w &&& 0xFFFF = 0x00E0 → decode w = .instr .cls) ∧
    (w &&& 0xFFFF = 0x00EE → decode w = .instr .ret) ∧
    (w &&& 0xF000 = 0x1000 → decode w = .instr (.jp (w.extractLsb' 0 12))) ∧
    (w &&& 0xF000 = 0x2000 → decode w = .instr (.call (w.extractLsb' 0 12))) ∧
    (w &&& 0xF000 = 0x3000 → decode w = .instr (.seImm (fieldX w) (w.extractLsb' 0 8))) ∧
    (w &&& 0xF000 = 0x4000 → decode w = .instr (.sneImm (fieldX w) (w.extractLsb' 0 8))) ∧
    (w &&& 0xF00F = 0x5000 → decode w = .instr (.seReg (fieldX w) (fieldY w))) ∧
    (w &&& 0xF000 = 0x6000 → decode w = .instr (.ldImm (fieldX w) (w.extractLsb' 0 8))) ∧
    (w &&& 0xF000 = 0x7000 → decode w = .instr (.addImm (fieldX w) (w.extractLsb' 0 8))) ∧
    (w &&& 0xF00F = 0x8000 → decode w = .instr (.ldReg (fieldX w) (fieldY w))) ∧
    (w &&& 0xF00F = 0x8001 → decode w = .instr (.orReg (fieldX w) (fieldY w))) ∧
    (w &&& 0xF00F = 0x8002 → decode w = .instr (.andReg (fieldX w) (fieldY w))) ∧
    (w &&& 0xF00F = 0x8003 → decode w = .instr (.xorReg (fieldX w) (fieldY w))) ∧
    (w &&& 0xF00F = 0x8004 → decode w = .instr (.addReg (fieldX w) (fieldY w))) ∧
    (w &&& 0xF00F = 0x8005 → decode w = .instr (.subReg (fieldX w) (fieldY w))) ∧
    (w &&& 0xF00F = 0x8006 → decode w = .instr (.shr (fieldX w) (fieldY w))) ∧
    (w &&& 0xF00F = 0x8007 → decode w = .instr (.subn (fieldX w) (fieldY w))) ∧
    (w &&& 0xF00F = 0x800E → decode w = .instr (.shl (fieldX w) (fieldY w))) ∧
    (w &&& 0xF00F = 0x9000 → decode w = .instr (.sneReg (fieldX w) (fieldY w))) ∧
    (w &&& 0xF000 = 0xA000 → decode w = .instr (.ldI (w.extractLsb' 0 12))) ∧
    (w &&& 0xF000 = 0xB000 → decode w = .instr (.jpV0 (w.extractLsb' 0 12))) ∧
    (w &&& 0xF000 = 0xC000 → decode w = .instr (.rnd (fieldX w) (w.extractLsb' 0 8))) ∧
    (w &&& 0xF000 = 0xD000 → decode w = .instr (.drw (fieldX w) (fieldY w) (fieldN w))) ∧
    (w &&& 0xF0FF = 0xE09E → decode w = .instr (.skp (fieldX w))) ∧
    (w &&& 0xF0FF = 0xE0A1 → decode w = .instr (.sknp (fieldX w))) ∧
    (w &&& 0xF0FF = 0xF007 → decode w = .instr (.ldVxDt (fieldX w))) ∧
    (w &&& 0xF0FF = 0xF00A → decode w = .instr (.ldVxK (fieldX w))) ∧
    (w &&& 0xF0FF = 0xF015 → decode w = .instr (.ldDtVx (fieldX w))) ∧
    (w &&& 0xF0FF = 0xF018 → decode w = .instr (.ldStVx (fieldX w))) ∧
    (w &&& 0xF0FF = 0xF01E → decode w = .instr (.addI (fieldX w))) ∧
    (w &&& 0xF0FF = 0xF029 → decode w = .instr (.ldIFont (fieldX w))) ∧
    (w &&& 0xF0FF = 0xF033 → decode w = .instr (.ldBcd (fieldX w))) ∧
    (w &&& 0xF0FF = 0xF055 → decode w = .instr (.stRegs (fieldX w))) ∧
    (w &&& 0xF0FF = 0xF065 → decode w = .instr (.ldRegs (fieldX w)))

/-- The templates are pairwise disjoint, and decoding is the same under any order of them (the spec's own
inference in R68). -/
def Obligations.TemplatesDisjointInAnyOrder : Prop :=
  templates.length = 34 ∧
  templates.Pairwise (fun t u => ∀ w : Word, ¬ (t.accepts w = true ∧ u.accepts w = true)) ∧
  ∀ ts : List Template, ts.Perm templates → ∀ w : Word, decodeWith ts w = decode w

/-- The unrecognized words by first nibble, as the spec counts them (R71, the spec's own inference), and the
sentinel, which matches no template (R70). -/
def Obligations.UnrecognizedWordsAreThoseListed : Prop :=
  decode 0 = .unrecognized ∧
  ∀ w : Word, w ≠ 0 →
    (decode w = .unrecognized ↔
      (w.toNat / 4096 = 0 ∧ w ≠ 0x00E0 ∧ w ≠ 0x00EE) ∨
      (w.toNat / 4096 = 5 ∧ w.toNat % 16 ≠ 0) ∨
      (w.toNat / 4096 = 8 ∧ w.toNat % 16 ∈ [8, 9, 10, 11, 12, 13, 15]) ∨
      (w.toNat / 4096 = 9 ∧ w.toNat % 16 ≠ 0) ∨
      (w.toNat / 4096 = 14 ∧ w.toNat % 256 ∉ [0x9E, 0xA1]) ∨
      (w.toNat / 4096 = 15 ∧ w.toNat % 256 ∉ [0x07, 0x0A, 0x15, 0x18, 0x1E, 0x29, 0x33, 0x55, 0x65]))

/-! ### The step loop (spec/40_step_loop.md, spec/60_exceptions.md) -/

/-- R84: a tick whose word decodes to an instruction runs exactly that instruction, on the state the poll left,
and then ends the tick. -/
def Obligations.StepRunsTheDecodedInstruction : Prop :=
  ∀ (s : State) (i : Instr), Fetches s i →
    step s = match exec i s.poll with
      | .next t => .next t.endTick
      | .fault f => .fault f
      | .refused r => .refused r

/-- R82: HALTED is terminal, for any number of ticks and whatever the inputs. -/
def Obligations.HaltedIsTerminal : Prop :=
  ∀ (s : State) (k : Nat), s.rs = .halted → step s = .next s ∧ Host.Core.run Sys2Proof.core k s = .next s

/-- R81: a sampled close request halts the tick before anything else happens, in RUNNING and in
WAITING_FOR_KEY. FAULT_PC and FAULT_WORD keep their values. -/
def Obligations.CloseRequestHaltsFirst : Prop :=
  ∀ s : State, s.rs ≠ .halted → s.poll.closeReq = true →
    ∃ t, step s = .next t ∧ t.rs = .halted ∧ t.haltCause = .closeRequested ∧
      KeepsArchitecture s t ∧ t.faultPc = s.faultPc ∧ t.faultWord = s.faultWord ∧
      t.diagOvf = s.diagOvf ∧ t.diagUnf = s.diagUnf ∧ t.frames = s.frames ∧ t.params = s.params

/-- The instruction word is the two bytes at PC, the lower address the high byte, at any PC up to 0xFFE; above it
the fetch halts the tick with OUT_OF_RANGE_ADDRESS (R49). That odd PCs are fetched like any other is the spec's
decision D9 (R51, log 17), and that the halt leaves everything else as it was is the spec's own inference in R141,
over the halt of its decision D17 (R140). -/
def Obligations.FetchIsBigEndianOrHalts : Prop :=
  ∀ s : State,
    (s.pc.toNat ≤ 0xFFE → ∃ w : Word, s.fetch = some w ∧
      w.toNat = (s.readByte s.pc.toNat).toNat * 256 + (s.readByte (s.pc.toNat + 1)).toNat) ∧
    (0xFFE < s.pc.toNat → s.fetch = none) ∧
    (0xFFE < s.pc.toNat → s.rs ≠ .halted → s.poll.closeReq = false →
      ∃ t, step s = .next t ∧ t.rs = .halted ∧ t.haltCause = .outOfRangeAddress ∧ KeepsArchitecture s t)

/-- What the halts of the loop's own checks record: the fetch, the sentinel and the unrecognized word (the
spec's decisions D7, D17, D18 in R83, R140, R144). -/
def Obligations.LoopHaltsRecordTheirCause : Prop :=
  ∀ s : State, s.rs ≠ .halted → s.poll.closeReq = false →
    (s.fetch = none → ∃ t, step s = .next t ∧ HaltedWith s.poll t .outOfRangeAddress 0) ∧
    (s.fetch = some 0 → ∃ t, step s = .next t ∧ HaltedWith s.poll t .sentinel 0) ∧
    (∀ w, s.fetch = some w → w ≠ 0 → decode w = .unrecognized →
      ∃ t, step s = .next t ∧ HaltedWith s.poll t .unrecognizedInstruction w)

/-- A tick halts exactly when a condition of R146's list holds, and with the first one that does (the spec's
own inference in R146). -/
def Obligations.HaltsFollowThePriorityList : Prop :=
  ∀ s t : State, s.rs ≠ .halted → step s = .next t →
    (t.rs = .halted ↔ haltCondition s.poll ≠ .none) ∧
    (haltCondition s.poll ≠ .none → t.haltCause = haltCondition s.poll)

/-- Every halt is precise (the spec's own inference in R141). -/
def Obligations.EveryHaltIsPrecise : Prop :=
  ∀ s t : State, s.rs ≠ .halted → step s = .next t → t.rs = .halted →
    KeepsArchitecture s t ∧ t.frames = s.frames

/-- The end of a tick: DT and ST counted down, never below 0, unless the tick halted or waits (R88; ST under the
spec's decision D11 in R89; the `present` event counted, log 16). -/
def Obligations.EndOfTickCountsTheTimers : Prop :=
  ∀ u : State,
    (u.rs = .running →
      u.endTick.dt.toNat = u.dt.toNat - 1 ∧
      (u.params.stDecrements = true → u.endTick.st.toNat = u.st.toNat - 1) ∧
      (u.params.stDecrements = false → u.endTick.st = u.st) ∧
      u.endTick.frames = u.frames + 1 ∧
      u.endTick = { u with dt := u.endTick.dt, st := u.endTick.st, frames := u.endTick.frames }) ∧
    (u.rs = .waitingForKey → u.endTick = { u with frames := u.frames + 1 }) ∧
    (u.rs = .halted → u.endTick = u)

/-- The tick that writes a timer also decrements it, and `Fx07` reads DT before its own tick's decrement (the
spec's own inference in R164; ST under D11). -/
def Obligations.TimerTicksInTheTickThatUsesIt : Prop :=
  ∀ (s : State) (x : Reg), s.rs = .running →
    (Fetches s (.ldDtVx x) → ∃ t, step s = .next t ∧ t.dt.toNat = (s.getV x).toNat - 1) ∧
    (Fetches s (.ldStVx x) → ∃ t, step s = .next t ∧
      t.st.toNat = if s.params.stDecrements then (s.getV x).toNat - 1 else (s.getV x).toNat) ∧
    (Fetches s (.ldVxDt x) → ∃ t, step s = .next t ∧ t.getV x = s.dt ∧ t.dt.toNat = s.dt.toNat - 1)

/-- A tick of a key wait: with no key pressed nothing moves and the timers are frozen; the tick that sees a key
completes and decrements them (the spec's own inferences in R92, R165; least index D13). That the waiting tick
emits `present` is the spec's decision D20 (R93), and that `frames` counts it is the model's choice (log 16). -/
def Obligations.KeyWaitFreezesUntilAKey : Prop :=
  ∀ (s : State) (x : Reg), Fetches s (.ldVxK x) →
    ((∀ k < 16, s.poll.keys.getLsbD k = false) →
      ∃ t, step s = .next t ∧ t.rs = .waitingForKey ∧ KeepsArchitecture s t ∧ t.frames = s.frames + 1) ∧
    (∀ k < 16, s.poll.keys.getLsbD k = true → (∀ j < k, s.poll.keys.getLsbD j = false) →
      ∃ t, step s = .next t ∧ t.rs = .running ∧ (t.getV x).toNat = k ∧ Advanced s t 2 ∧
        t.dt.toNat = s.dt.toNat - 1)

/-- The transitions of RS, row by row of R91's table, with the load that ends a key wait. A RUNNING tick without a
close request and without `Fx0A` halts exactly when a listed condition holds, with that cause. R91 has no row for
WAITING_FOR_KEY with another word at PC, which no run reaches: `WaitingWithAnotherWordRunsIt`. -/
def Obligations.RunStateTransitions : Prop :=
  ∀ s t : State, step s = .next t →
    (s.rs = .halted → t.rs = .halted) ∧
    (s.rs ≠ .halted → s.poll.closeReq = true → t.rs = .halted ∧ t.haltCause = .closeRequested) ∧
    (∀ x, Fetches s (.ldVxK x) →
      ((∃ k < 16, s.poll.keys.getLsbD k = true) → t.rs = .running ∧
        ∃ k < 16, s.poll.keys.getLsbD k = true ∧ (t.getV x).toNat = k) ∧
      ((∀ k < 16, s.poll.keys.getLsbD k = false) → t.rs = .waitingForKey ∧ KeepsPc s t)) ∧
    (s.rs = .running → s.poll.closeReq = false → (∀ x, ¬ Fetches s (.ldVxK x)) →
      (haltCondition s.poll = .none → t.rs = .running) ∧
      (haltCondition s.poll ≠ .none → t.rs = .halted ∧ t.haltCause = haltCondition s.poll))

/-- The poll takes the collaborators' next inputs; when none are scripted, the levels hold and the draw is free
(R80; the model's holding of inputs, log 10 and log 11). -/
def Obligations.PollTakesTheNextInputs : Prop :=
  ∀ s : State,
    (∀ t rest, s.script = t :: rest →
      s.poll.keys = t.keys ∧ s.poll.closeReq = t.closeReq ∧ s.poll.draw = t.draw ∧ s.poll.script = rest ∧
      s.poll.drawCount = s.drawCount) ∧
    (s.script = [] →
      s.poll.keys = s.keys ∧ s.poll.closeReq = s.closeReq ∧ s.poll.script = [] ∧
      s.poll.drawCount = s.drawCount + 1) ∧
    KeepsArchitecture s s.poll ∧ KeepsStatus s s.poll ∧ s.poll.frames = s.frames ∧ s.poll.params = s.params

/-! ### Invariants -/

/-- Every step keeps the invariant of the state (R31, R33, R36, R40). -/
def Obligations.EveryStepKeepsTheStateInvariant : Prop :=
  ∀ s t : State, s.Inv → step s = .next t → t.Inv

/-- The reset state meets the invariants (its contents: log 2 to 11). -/
def Obligations.ResetMeetsTheInvariants : Prop := State.reset.Inv ∧ State.reset.WaitInv

/-- Every instance meets the invariants before its first tick, whatever its parameters and image. For an image that
is too long the spec says RS, the cause and that no byte of it is written (R159, the spec's decision D30); PC, SP, I
and the rest of that instance are the model's choice (log 20). -/
def Obligations.EveryInstanceMeetsTheInvariants : Prop :=
  ∀ params font ini rom script,
    (powerOn params font ini rom script).Inv ∧ (powerOn params font ini rom script).WaitInv

/-- From a state that meets the invariant, no run of any length ends in a fault or a refusal: halting is a state,
and the fault of log 14 is out of reach. -/
def Obligations.NoRunFaultsOrRefuses : Prop :=
  ∀ (k : Nat) (s : State), s.Inv → ∃ t, Host.Core.run Sys2Proof.core k s = .next t ∧ t.Inv

/-- Every step keeps the word at PC an `Fx0A` while the loop waits for a key (the spec's own inference in R92). -/
def Obligations.EveryStepKeepsTheWaitInvariant : Prop :=
  ∀ s t : State, s.WaitInv → step s = .next t → t.WaitInv

/-- No step changes a parameter of the machine (R7, R22; log 9). -/
def Obligations.NoStepChangesTheParameters : Prop :=
  ∀ s t : State, step s = .next t → t.params = s.params

/-! ### Who writes what -/

/-- Each piece of state is written only by the instructions the spec names for it: the general registers
(R26), I (R30), PC (R32), the stack (R35), the timers (R38), the display (R41), memory (R52), and RS and the status
registers (the spec's decision D17 in R40, R140, R142): RS by `Fx0A` and by a halt, HALT_CAUSE by a halt, FAULT_PC and
FAULT_WORD by a halt and by the reports of `00EE` and `2nnn`, DIAG_OVF by `2nnn`, DIAG_UNF by `00EE`. Only the six
instructions of `ownCondition` halt. -/
def Obligations.OnlyTheNamedInstructionsWrite : Prop :=
  ∀ (i : Instr) (s t : State), exec i s = .next t →
    (∀ r, writesReg i r = false → t.getV r = s.getV r) ∧
    ((∀ n, i ≠ .ldI n) → (∀ x, i ≠ .addI x) → (∀ x, i ≠ .ldIFont x) → KeepsIndex s t) ∧
    (i ≠ .ret → (∀ n, i ≠ .jp n) → (∀ n, i ≠ .call n) → (∀ n, i ≠ .jpV0 n) →
      KeepsPc s t ∨ Advanced s t 2 ∨ Advanced s t 4) ∧
    (i ≠ .ret → (∀ n, i ≠ .call n) → KeepsStack s t) ∧
    ((∀ x, i ≠ .ldDtVx x) → t.dt = s.dt) ∧
    ((∀ x, i ≠ .ldStVx x) → t.st = s.st) ∧
    (i ≠ .cls → (∀ x y n, i ≠ .drw x y n) → KeepsDisplay s t) ∧
    ((∀ x, i ≠ .ldBcd x) → (∀ x, i ≠ .stRegs x) → KeepsMemory s t) ∧
    (ownCondition i s = .none → (∀ x, i ≠ .ldVxK x) → t.rs = s.rs) ∧
    (ownCondition i s = .none → t.haltCause = s.haltCause) ∧
    (ownCondition i s = .none → i ≠ .ret → (∀ n, i ≠ .call n) →
      t.faultPc = s.faultPc ∧ t.faultWord = s.faultWord) ∧
    ((∀ n, i ≠ .call n) → t.diagOvf = s.diagOvf) ∧
    (i ≠ .ret → t.diagUnf = s.diagUnf) ∧
    KeepsEnvironment s t

/-- The instructions that set VF as a flag leave 0 or 1 in it every time they execute, when VF is not also the
destination (R27; for x = 15 see the statements of each); no other instruction whose destination is not VF
changes it. -/
def Obligations.FlagSettersAlwaysOverwriteVF : Prop :=
  ∀ (i : Instr) (s : State),
    (∀ x, flagDest i = some x → x ≠ regF →
      ∃ t, exec i s = .next t ∧ (t.getV regF = 0 ∨ t.getV regF = 1)) ∧
    (∀ x y n, i = .drw x y n → (n.val = 0 ∨ s.i.toNat + n.val - 1 ≤ 0xFFF) →
      ∃ t, exec i s = .next t ∧ (t.getV regF = 0 ∨ t.getV regF = 1)) ∧
    (∀ t, exec i s = .next t → writesReg i regF = false → t.getV regF = s.getV regF)

/-! ### Control transfer (spec/41_control_transfer.md) -/

/-- R98, with its corner cases: only the target 0xFFF has no word to fetch, and the timers count down in the
jump's tick (ST under `ST_DECREMENTS`). -/
def Obligations.JumpSetsPc : Prop :=
  ∀ (s : State) (nnn : BitVec 12),
    HasTemplate (.jp nnn) 0xF000 0x1000 ∧
    ∃ t, exec (.jp nnn) s = .next t ∧ t.pc.toNat = nnn.toNat ∧ OnlyPc s t ∧
      (t.fetch = none ↔ nnn.toNat = 0xFFF) ∧
      (s.rs = .running → t.endTick.pc = t.pc ∧ t.endTick.dt.toNat = s.dt.toNat - 1 ∧
        (s.params.stDecrements = true → t.endTick.st.toNat = s.st.toNat - 1))

/-- `JP V0, nnn`: the sum is not reduced (R100, the spec's decision D10). -/
def Obligations.JumpWithOffsetSetsPcUnmasked : Prop :=
  ∀ (s : State) (nnn : BitVec 12),
    HasTemplate (.jpV0 nnn) 0xF000 0xB000 ∧
    ∃ t, exec (.jpV0 nnn) s = .next t ∧ t.pc.toNat = nnn.toNat + (s.getV 0).toNat ∧ OnlyPc s t

/-- `CALL nnn` below SP = 15: the address after the call is pushed (R99, the spec's decision D4). -/
def Obligations.CallPushesTheNextAddress : Prop :=
  ∀ (s : State) (nnn : BitVec 12), s.sp.toNat < 15 →
    HasTemplate (.call nnn) 0xF000 0x2000 ∧
    ∃ t, exec (.call nnn) s = .next t ∧ t.pc.toNat = nnn.toNat ∧ t.sp.toNat = s.sp.toNat + 1 ∧
      (∀ k : Fin 16, t.stack[k.val] = if k.val = s.sp.toNat then s.pc + 2 else s.stack[k.val]) ∧
      OnlyStack s t

/-- `RET` above SP = 0: the top cell becomes PC and keeps its value (R97). -/
def Obligations.ReturnPopsTheTopCell : Prop :=
  ∀ (s : State) (k : Fin 16), s.sp.toNat = k.val + 1 →
    HasTemplate .ret 0xFFFF 0x00EE ∧
    ∃ t, exec .ret s = .next t ∧ t.pc = s.stack[k.val] ∧ t.sp.toNat = k.val ∧
      (∀ j : Fin 16, t.stack[j.val] = s.stack[j.val]) ∧ OnlyStack s t

/-- `CALL` at SP = 15: reported, then a halt or a no-op by the policy; SP and the stack unchanged (R96, R99,
R142, R143; the spec's decisions D5, D6, D17). The spec records the tick's word as FAULT_WORD; that this is
`encode` of the instruction is the model's deduction (log 13). -/
def Obligations.CallOverflowIsReported : Prop :=
  ∀ (s : State) (nnn : BitVec 12), s.sp = 15 →
    ∃ t, exec (.call nnn) s = .next t ∧
      t.diagOvf = true ∧ t.diagUnf = s.diagUnf ∧ t.faultPc = s.pc ∧ t.faultWord = encode (.call nnn) ∧
      KeepsRegs s t [] ∧ KeepsIndex s t ∧ KeepsStack s t ∧ KeepsTimers s t ∧ KeepsDisplay s t ∧
      KeepsMemory s t ∧ KeepsEnvironment s t ∧
      (s.params.stackFaultPolicy = .halt → t.rs = .halted ∧ t.haltCause = .stackOverflow ∧ KeepsPc s t) ∧
      (s.params.stackFaultPolicy = .continues → t.rs = s.rs ∧ t.haltCause = s.haltCause ∧ Advanced s t 2)

/-- `RET` at SP = 0: reported, then a halt or a no-op by the policy; SP and the stack unchanged (R96, R97,
R142, R143; the spec's decisions D5, D6, D17). -/
def Obligations.ReturnUnderflowIsReported : Prop :=
  ∀ s : State, s.sp = 0 →
    ∃ t, exec .ret s = .next t ∧
      t.diagUnf = true ∧ t.diagOvf = s.diagOvf ∧ t.faultPc = s.pc ∧ t.faultWord = 0x00EE ∧
      KeepsRegs s t [] ∧ KeepsIndex s t ∧ KeepsStack s t ∧ KeepsTimers s t ∧ KeepsDisplay s t ∧
      KeepsMemory s t ∧ KeepsEnvironment s t ∧
      (s.params.stackFaultPolicy = .halt → t.rs = .halted ∧ t.haltCause = .stackUnderflow ∧ KeepsPc s t) ∧
      (s.params.stackFaultPolicy = .continues → t.rs = s.rs ∧ t.haltCause = s.haltCause ∧ Advanced s t 2)

/-- Where the return stack has no cell the model stops by name (the model's choice, log 14). No state that meets
the invariant is such a state. -/
def Obligations.StackHasNoCellBeyondItsSixteen : Prop :=
  ∀ (s : State) (nnn : BitVec 12),
    (15 < s.sp.toNat → exec (.call nnn) s = .fault .stackPointerBeyondStack ∧ ¬ s.Inv) ∧
    (16 < s.sp.toNat → exec .ret s = .fault .stackPointerBeyondStack)

/-- A call and its matching return give back PC and SP (the spec's own inference in R101). -/
def Obligations.CallThenReturnComesBack : Prop :=
  ∀ (s t u : State) (nnn : BitVec 12), s.sp.toNat < 15 → exec (.call nnn) s = .next t →
    u.sp = t.sp → (∀ k : Fin 16, k.val = s.sp.toNat → u.stack[k.val] = t.stack[k.val]) →
    ∃ w, exec .ret u = .next w ∧ Advanced s w 2 ∧ w.sp = s.sp

/-! ### Skips (spec/42_skips.md, spec/46_timers_input.md) -/

/-- R102, R103, R104, R105, with the words of `5xy_` and `9xy_` that R104 and R105 call unrecognized. -/
def Obligations.RegisterSkipsAdvanceByFourOrTwo : Prop :=
  ∀ (s : State) (x y : Reg) (kk : Byte),
    (HasTemplate (.seImm x kk) 0xF000 0x3000 ∧ ∃ t, exec (.seImm x kk) s = .next t ∧ OnlyPc s t ∧
      (s.getV x = kk → Advanced s t 4) ∧ (s.getV x ≠ kk → Advanced s t 2)) ∧
    (HasTemplate (.sneImm x kk) 0xF000 0x4000 ∧ ∃ t, exec (.sneImm x kk) s = .next t ∧ OnlyPc s t ∧
      (s.getV x ≠ kk → Advanced s t 4) ∧ (s.getV x = kk → Advanced s t 2)) ∧
    (HasTemplate (.seReg x y) 0xF00F 0x5000 ∧ ∃ t, exec (.seReg x y) s = .next t ∧ OnlyPc s t ∧
      (s.getV x = s.getV y → Advanced s t 4) ∧ (s.getV x ≠ s.getV y → Advanced s t 2)) ∧
    (HasTemplate (.sneReg x y) 0xF00F 0x9000 ∧ ∃ t, exec (.sneReg x y) s = .next t ∧ OnlyPc s t ∧
      (s.getV x ≠ s.getV y → Advanced s t 4) ∧ (s.getV x = s.getV y → Advanced s t 2)) ∧
    (∀ w : Word, w &&& 0xF000 = 0x5000 → w &&& 0x000F ≠ 0 → decode w = .unrecognized) ∧
    (∀ w : Word, w &&& 0xF000 = 0x9000 → w &&& 0x000F ≠ 0 → decode w = .unrecognized)

/-- R131, R132: the low nibble of `V[x]` selects the key, in the tick's sample. -/
def Obligations.KeySkipsTestTheSampledKey : Prop :=
  ∀ (s : State) (x : Reg),
    (HasTemplate (.skp x) 0xF0FF 0xE09E ∧ ∃ t, exec (.skp x) s = .next t ∧ OnlyPc s t ∧
      (s.keys.getLsbD ((s.getV x).toNat % 16) = true → Advanced s t 4) ∧
      (s.keys.getLsbD ((s.getV x).toNat % 16) = false → Advanced s t 2)) ∧
    (HasTemplate (.sknp x) 0xF0FF 0xE0A1 ∧ ∃ t, exec (.sknp x) s = .next t ∧ OnlyPc s t ∧
      (s.keys.getLsbD ((s.getV x).toNat % 16) = false → Advanced s t 4) ∧
      (s.keys.getLsbD ((s.getV x).toNat % 16) = true → Advanced s t 2))

/-! ### Loads and the ALU (spec/43_alu.md) -/

/-- R107, R108, R109. -/
def Obligations.LoadsAndImmediateAdd : Prop :=
  ∀ (s : State) (x y : Reg) (kk : Byte),
    (HasTemplate (.ldImm x kk) 0xF000 0x6000 ∧ ∃ t, exec (.ldImm x kk) s = .next t ∧
      t.getV x = kk ∧ Advanced s t 2 ∧ OnlyRegs s t [x]) ∧
    (HasTemplate (.addImm x kk) 0xF000 0x7000 ∧ ∃ t, exec (.addImm x kk) s = .next t ∧
      (t.getV x).toNat = ((s.getV x).toNat + kk.toNat) % 256 ∧ Advanced s t 2 ∧ OnlyRegs s t [x]) ∧
    (HasTemplate (.ldReg x y) 0xF00F 0x8000 ∧ ∃ t, exec (.ldReg x y) s = .next t ∧
      t.getV x = s.getV y ∧ Advanced s t 2 ∧ OnlyRegs s t [x])

/-- R110, R111, R112: bit by bit, and VF is not a flag of these. -/
def Obligations.LogicOperationsBitByBit : Prop :=
  ∀ (s : State) (x y : Reg),
    (HasTemplate (.orReg x y) 0xF00F 0x8001 ∧ ∃ t, exec (.orReg x y) s = .next t ∧
      (∀ k < 8, (t.getV x).getLsbD k = ((s.getV x).getLsbD k || (s.getV y).getLsbD k)) ∧
      Advanced s t 2 ∧ OnlyRegs s t [x]) ∧
    (HasTemplate (.andReg x y) 0xF00F 0x8002 ∧ ∃ t, exec (.andReg x y) s = .next t ∧
      (∀ k < 8, (t.getV x).getLsbD k = ((s.getV x).getLsbD k && (s.getV y).getLsbD k)) ∧
      Advanced s t 2 ∧ OnlyRegs s t [x]) ∧
    (HasTemplate (.xorReg x y) 0xF00F 0x8003 ∧ ∃ t, exec (.xorReg x y) s = .next t ∧
      (∀ k < 8, (t.getV x).getLsbD k = ((s.getV x).getLsbD k ^^ (s.getV y).getLsbD k)) ∧
      Advanced s t 2 ∧ OnlyRegs s t [x])

/-- `ADD Vx, Vy` (R113), with x = 15 under each XF_DEST_RULE (R28, the spec's decision D19). -/
def Obligations.AddSetsSumAndCarry : Prop :=
  ∀ (s : State) (x y : Reg),
    HasTemplate (.addReg x y) 0xF00F 0x8004 ∧
    ∃ t, exec (.addReg x y) s = .next t ∧ Advanced s t 2 ∧ OnlyRegs s t [x, regF] ∧
      (x ≠ regF →
        (t.getV x).toNat = ((s.getV x).toNat + (s.getV y).toNat) % 256 ∧
        (t.getV regF).toNat = if (s.getV x).toNat + (s.getV y).toNat > 255 then 1 else 0) ∧
      (x = regF → s.params.xfDestRule ≠ .flagWins →
        (t.getV regF).toNat = ((s.getV x).toNat + (s.getV y).toNat) % 256) ∧
      (x = regF → s.params.xfDestRule = .flagWins →
        (t.getV regF).toNat = if (s.getV x).toNat + (s.getV y).toNat > 255 then 1 else 0)

/-- `SUB Vx, Vy` and `SUBN Vx, Vy` (R114, R116) over signed integers, with x = 15 under each XF_DEST_RULE (R28,
the spec's decision D19). -/
def Obligations.SubtractionsSetDifferenceAndNoBorrow : Prop :=
  ∀ (s : State) (x y : Reg),
    (HasTemplate (.subReg x y) 0xF00F 0x8005 ∧
     ∃ t, exec (.subReg x y) s = .next t ∧ Advanced s t 2 ∧ OnlyRegs s t [x, regF] ∧
      (x ≠ regF →
        ((t.getV x).toNat : Int) = ((s.getV x).toNat - (s.getV y).toNat : Int) % 256 ∧
        (t.getV regF).toNat = if (s.getV y).toNat ≤ (s.getV x).toNat then 1 else 0) ∧
      (x = regF → s.params.xfDestRule ≠ .flagWins →
        ((t.getV regF).toNat : Int) = ((s.getV x).toNat - (s.getV y).toNat : Int) % 256) ∧
      (x = regF → s.params.xfDestRule = .flagWins →
        (t.getV regF).toNat = if (s.getV y).toNat ≤ (s.getV x).toNat then 1 else 0)) ∧
    (HasTemplate (.subn x y) 0xF00F 0x8007 ∧
     ∃ t, exec (.subn x y) s = .next t ∧ Advanced s t 2 ∧ OnlyRegs s t [x, regF] ∧
      (x ≠ regF →
        ((t.getV x).toNat : Int) = ((s.getV y).toNat - (s.getV x).toNat : Int) % 256 ∧
        (t.getV regF).toNat = if (s.getV x).toNat ≤ (s.getV y).toNat then 1 else 0) ∧
      (x = regF → s.params.xfDestRule ≠ .flagWins →
        ((t.getV regF).toNat : Int) = ((s.getV y).toNat - (s.getV x).toNat : Int) % 256) ∧
      (x = regF → s.params.xfDestRule = .flagWins →
        (t.getV regF).toNat = if (s.getV x).toNat ≤ (s.getV y).toNat then 1 else 0))

/-- `SHR Vx` and `SHL Vx` (R115, R117): `V[y]` is not read; x = 15 under each XF_DEST_RULE (R28, the spec's
decision D19). -/
def Obligations.ShiftsMoveOneBitIntoVF : Prop :=
  ∀ (s : State) (x y : Reg),
    (HasTemplate (.shr x y) 0xF00F 0x8006 ∧
     ∃ t, exec (.shr x y) s = .next t ∧ Advanced s t 2 ∧ OnlyRegs s t [x, regF] ∧
      (x ≠ regF → (t.getV x).toNat = (s.getV x).toNat / 2 ∧ (t.getV regF).toNat = (s.getV x).toNat % 2) ∧
      (x = regF → s.params.xfDestRule = .sequential → (t.getV regF).toNat = 0) ∧
      (x = regF → s.params.xfDestRule = .snapshot → (t.getV regF).toNat = (s.getV x).toNat / 2) ∧
      (x = regF → s.params.xfDestRule = .flagWins → (t.getV regF).toNat = (s.getV x).toNat % 2)) ∧
    (HasTemplate (.shl x y) 0xF00F 0x800E ∧
     ∃ t, exec (.shl x y) s = .next t ∧ Advanced s t 2 ∧ OnlyRegs s t [x, regF] ∧
      (x ≠ regF → (t.getV x).toNat = (s.getV x).toNat * 2 % 256 ∧
        (t.getV regF).toNat = (s.getV x).toNat / 128) ∧
      (x = regF → s.params.xfDestRule = .sequential →
        (t.getV regF).toNat = (s.getV x).toNat / 128 * 2 % 256) ∧
      (x = regF → s.params.xfDestRule = .snapshot → (t.getV regF).toNat = (s.getV x).toNat * 2 % 256) ∧
      (x = regF → s.params.xfDestRule = .flagWins → (t.getV regF).toNat = (s.getV x).toNat / 128))

/-- `RND Vx, kk` (R118): the tick's draw under the mask, for every draw (log 11). -/
def Obligations.RandomIsTheDrawUnderTheMask : Prop :=
  ∀ (s : State) (x : Reg) (kk : Byte),
    HasTemplate (.rnd x kk) 0xF000 0xC000 ∧
    ∃ t, exec (.rnd x kk) s = .next t ∧
      (∀ k < 8, (t.getV x).getLsbD k = (s.draw.getLsbD k && kk.getLsbD k)) ∧
      Advanced s t 2 ∧ OnlyRegs s t [x]

/-! ### Index register and memory (spec/44_index_memory.md) -/

/-- R119, R120, R121. -/
def Obligations.IndexLoadsAndAdd : Prop :=
  ∀ (s : State) (x : Reg) (nnn : BitVec 12),
    (HasTemplate (.ldI nnn) 0xF000 0xA000 ∧ ∃ t, exec (.ldI nnn) s = .next t ∧
      t.i.toNat = nnn.toNat ∧ Advanced s t 2 ∧ OnlyIndex s t) ∧
    (HasTemplate (.addI x) 0xF0FF 0xF01E ∧ ∃ t, exec (.addI x) s = .next t ∧
      t.i.toNat = (s.i.toNat + (s.getV x).toNat) % 4096 ∧ Advanced s t 2 ∧ OnlyIndex s t) ∧
    (HasTemplate (.ldIFont x) 0xF0FF 0xF029 ∧ ∃ t, exec (.ldIFont x) s = .next t ∧
      t.i.toNat = (s.getV x).toNat % 16 * 5 ∧ Advanced s t 2 ∧ OnlyIndex s t)

/-- `LD B, Vx` in range (R122): three digits at I, I + 1, I + 2 and no other byte. -/
def Obligations.BcdStoresThreeDigits : Prop :=
  ∀ (s : State) (x : Reg), s.mem.wf = true → addrAt s 2 ≤ 0xFFF →
    HasTemplate (.ldBcd x) 0xF0FF 0xF033 ∧
    ∃ t, exec (.ldBcd x) s = .next t ∧
      (t.readByte (addrAt s 0)).toNat = (s.getV x).toNat / 100 ∧
      (t.readByte (addrAt s 1)).toNat = (s.getV x).toNat / 10 % 10 ∧
      (t.readByte (addrAt s 2)).toNat = (s.getV x).toNat % 10 ∧
      (∀ a, (∀ k < 3, a ≠ addrAt s k) → t.readByte a = s.readByte a) ∧
      t.mem.wf = true ∧ Advanced s t 2 ∧ OnlyMemory s t

/-- `LD [I], Vx` in range (R123): V0..Vx at I..I + x and no other byte. -/
def Obligations.StoreRegistersWritesEachByte : Prop :=
  ∀ (s : State) (x : Reg), s.mem.wf = true → addrAt s x.val ≤ 0xFFF →
    HasTemplate (.stRegs x) 0xF0FF 0xF055 ∧
    ∃ t, exec (.stRegs x) s = .next t ∧
      (∀ k : Reg, k ≤ x → t.readByte (addrAt s k.val) = s.getV k) ∧
      (∀ a, (∀ k : Reg, k ≤ x → a ≠ addrAt s k.val) → t.readByte a = s.readByte a) ∧
      t.mem.wf = true ∧ Advanced s t 2 ∧ OnlyMemory s t

/-- `LD Vx, [I]` in range (R124): V0..Vx from I..I + x, every other register and all of memory unchanged. -/
def Obligations.LoadRegistersReadsEachByte : Prop :=
  ∀ (s : State) (x : Reg), addrAt s x.val ≤ 0xFFF →
    HasTemplate (.ldRegs x) 0xF0FF 0xF065 ∧
    ∃ t, exec (.ldRegs x) s = .next t ∧
      (∀ k : Reg, k ≤ x → t.getV k = s.readByte (addrAt s k.val)) ∧
      (∀ k : Reg, x < k → t.getV k = s.getV k) ∧
      Advanced s t 2 ∧ OnlyRegs s t ((List.finRange 16).filter (fun k => k ≤ x))

/-- An access above 0xFFF halts with none of the instruction's effect (R145; the spec's decision D8 in R55). What
FAULT_PC and FAULT_WORD record is the spec's decision D17 (R140), and that the tick's word is `encode` of the
instruction is the model's deduction (log 13). -/
def Obligations.OutOfRangeAccessDoesNothingElse : Prop :=
  ∀ (s : State) (x y : Reg) (n : Fin 16),
    (0xFFF < addrAt s 2 →
      ∃ t, exec (.ldBcd x) s = .next t ∧ HaltedWith s t .outOfRangeAddress (encode (.ldBcd x))) ∧
    (0xFFF < addrAt s x.val →
      ∃ t, exec (.stRegs x) s = .next t ∧ HaltedWith s t .outOfRangeAddress (encode (.stRegs x))) ∧
    (0xFFF < addrAt s x.val →
      ∃ t, exec (.ldRegs x) s = .next t ∧ HaltedWith s t .outOfRangeAddress (encode (.ldRegs x))) ∧
    (0 < n.val → 0xFFF < addrAt s (n.val - 1) →
      ∃ t, exec (.drw x y n) s = .next t ∧ HaltedWith s t .outOfRangeAddress (encode (.drw x y n)))

/-- Self-modifying code: a word stored by `Fx55` is the word the next fetch of its address gives (the spec's own
inference in R61). -/
def Obligations.StoredWordIsTheWordFetched : Prop :=
  ∀ (s t u : State) (x k j : Reg), s.mem.wf = true → addrAt s x.val ≤ 0xFFF →
    exec (.stRegs x) s = .next t → j.val = k.val + 1 → j ≤ x →
    u.mem = t.mem → u.pc.toNat = addrAt s k.val →
    ∃ w : Word, u.fetch = some w ∧ highByte w = s.getV k ∧ lowByte w = s.getV j

/-! ### Display (spec/45_display.md) -/

/-- R128. -/
def Obligations.ClearUnsetsEveryPixel : Prop :=
  ∀ s : State,
    HasTemplate .cls 0xFFFF 0x00E0 ∧
    ∃ t, exec .cls s = .next t ∧
      (∀ (px : Fin 64) (py : Fin 32), t.disp.pixel px py = false) ∧ Advanced s t 2 ∧ OnlyDisplay s t []

/-- `DRW Vx, Vy, n` in range (R129): exactly the covered pixels are flipped, with wrap-around, and VF says
whether one of them was set; n = 0 draws nothing and reads nothing (the spec's decision D26). -/
def Obligations.DrawFlipsTheCoveredPixels : Prop :=
  ∀ (s : State) (x y : Reg) (n : Fin 16), (n.val = 0 ∨ s.i.toNat + n.val - 1 ≤ 0xFFF) →
    HasTemplate (.drw x y n) 0xF000 0xD000 ∧
    ∃ t, exec (.drw x y n) s = .next t ∧
      (∀ px py, SpriteCovers s x y n.val px py → t.disp.pixel px py = !s.disp.pixel px py) ∧
      (∀ px py, ¬ SpriteCovers s x y n.val px py → t.disp.pixel px py = s.disp.pixel px py) ∧
      ((∃ px py, SpriteCovers s x y n.val px py ∧ s.disp.pixel px py = true) → t.getV regF = 1) ∧
      ((∀ px py, SpriteCovers s x y n.val px py → s.disp.pixel px py = false) → t.getV regF = 0) ∧
      Advanced s t 2 ∧ OnlyDisplay s t [regF]

/-- Drawing the same sprite twice at the same place restores the grid, and the second draw collides exactly when
a covered pixel was unset before the first (R129; for the corner case as the spec words it see log 18). -/
def Obligations.DrawingTwiceRestoresTheGrid : Prop :=
  ∀ (s t u v : State) (x y : Reg) (n : Fin 16), (n.val = 0 ∨ s.i.toNat + n.val - 1 ≤ 0xFFF) →
    exec (.drw x y n) s = .next t →
    u.disp = t.disp → u.mem = t.mem → u.i = t.i → u.getV x = s.getV x → u.getV y = s.getV y →
    exec (.drw x y n) u = .next v →
    KeepsDisplay s v ∧
    ((∃ px py, SpriteCovers s x y n.val px py ∧ s.disp.pixel px py = false) ↔ v.getV regF = 1)

/-! ### Timers and input (spec/46_timers_input.md) -/

/-- R133, R134: DT is read and written before the tick's own decrement. -/
def Obligations.DelayTimerTransfers : Prop :=
  ∀ (s : State) (x : Reg),
    (HasTemplate (.ldVxDt x) 0xF0FF 0xF007 ∧ ∃ t, exec (.ldVxDt x) s = .next t ∧
      t.getV x = s.dt ∧ Advanced s t 2 ∧ OnlyRegs s t [x] ∧
      (s.rs = .running → t.endTick.getV x = s.dt ∧ t.endTick.dt.toNat = s.dt.toNat - 1)) ∧
    (HasTemplate (.ldDtVx x) 0xF0FF 0xF015 ∧ ∃ t, exec (.ldDtVx x) s = .next t ∧
      t.dt = s.getV x ∧ t.st = s.st ∧ Advanced s t 2 ∧ OnlyTimers s t ∧
      (s.rs = .running → t.endTick.dt.toNat = (s.getV x).toNat - 1))

/-- `LD ST, Vx` (R135), with the same tick's decrement under ST_DECREMENTS (the spec's decision D11). -/
def Obligations.SoundTimerTransfer : Prop :=
  ∀ (s : State) (x : Reg),
    HasTemplate (.ldStVx x) 0xF0FF 0xF018 ∧ ∃ t, exec (.ldStVx x) s = .next t ∧
      t.st = s.getV x ∧ t.dt = s.dt ∧ Advanced s t 2 ∧ OnlyTimers s t ∧
      (s.rs = .running → s.params.stDecrements = true → t.endTick.st.toNat = (s.getV x).toNat - 1) ∧
      (s.rs = .running → s.params.stDecrements = false → t.endTick.st = s.getV x)

/-- `LD Vx, K` (R136): the least pressed key (the spec's decision D13 in R130), or the wait. -/
def Obligations.KeyWaitLoadsTheFirstKeyOrWaits : Prop :=
  ∀ (s : State) (x : Reg),
    HasTemplate (.ldVxK x) 0xF0FF 0xF00A ∧
    (∀ k < 16, s.keys.getLsbD k = true → (∀ j < k, s.keys.getLsbD j = false) →
      ∃ t, exec (.ldVxK x) s = .next t ∧ (t.getV x).toNat = k ∧ t.rs = .running ∧
        Advanced s t 2 ∧ OnlyRegsAndRs s t [x]) ∧
    ((∀ k < 16, s.keys.getLsbD k = false) →
      ∃ t, exec (.ldVxK x) s = .next t ∧ t.rs = .waitingForKey ∧ KeepsPc s t ∧ OnlyRegsAndRs s t [])

/-! ### Initialization (spec/70_reset_and_hazards.md) -/

/-- An instance before its first tick, for every value of the launch parameters (R157, R158; the open contents of
R45 under the spec's decision D14, FONT under D15). -/
def Obligations.PowerOnLoadsFontAndRom : Prop :=
  ∀ (params : Config.Params) (font : Vector Byte 80) (ini : LaunchContents) (rom : List Byte)
    (script : List TickInput) (s : State), s = powerOn params font ini rom script → rom.length ≤ 3584 →
    s.pc = 0x200 ∧ s.sp = 0 ∧ s.rs = .running ∧ s.haltCause = .none ∧ s.faultPc = 0 ∧ s.faultWord = 0 ∧
    s.diagOvf = false ∧ s.diagUnf = false ∧ s.v = ini.v ∧ s.i.toNat = ini.i.toNat ∧ s.dt = ini.dt ∧
    s.st = ini.st ∧ s.disp = ini.disp ∧ s.stack = ini.stack ∧ s.params = params ∧
    (∀ a : Fin 80, s.readByte a.val = font[a.val]) ∧
    (∀ a, (h : a < rom.length) → s.readByte (0x200 + a) = rom[a]) ∧
    (∀ a, 80 ≤ a → (a < 0x200 ∨ 0x200 + rom.length ≤ a) → s.readByte a = (initialMemory ini.mem).read a)

/-- An image longer than 3584 bytes is refused: halted before any tick, with no byte of it written (R159, the
spec's decision D30), and no tick then does anything. That memory outside the font then holds INIT_MEM is the
model's choice (log 20). -/
def Obligations.RomTooLargeNeverStarts : Prop :=
  ∀ (params : Config.Params) (font : Vector Byte 80) (ini : LaunchContents) (rom : List Byte)
    (script : List TickInput) (s : State) (k : Nat),
    s = powerOn params font ini rom script → 3584 < rom.length →
    s.rs = .halted ∧ s.haltCause = .romTooLarge ∧
    (∀ a, 80 ≤ a → s.readByte a = (initialMemory ini.mem).read a) ∧
    Host.Core.run Sys2Proof.core k s = .next s

/-! ### What a program cannot observe -/

/-- The reset contents of the return stack are never observable: runs of any length from states that differ only in
cells at SP and above stay so (the spec's own inference in R37). -/
def Obligations.DeadStackCellsAreUnobservable : Prop :=
  ∀ (k : Nat) (s s' t : State), s.Inv → SameButDeadStack s s' →
    Host.Core.run Sys2Proof.core k s = .next t →
    ∃ t', Host.Core.run Sys2Proof.core k s' = .next t' ∧ SameButDeadStack t t'

/-- No instruction reads ST (R38), so neither its value nor ST_DECREMENTS changes anything else, in a run of any
length. -/
def Obligations.SoundTimerIsUnobservable : Prop :=
  ∀ (k : Nat) (s s' t : State), SameButSound s s' →
    Host.Core.run Sys2Proof.core k s = .next t →
    ∃ t', Host.Core.run Sys2Proof.core k s' = .next t' ∧ SameButSound t t'

/-! ### A state no run reaches -/

/-- WAITING_FOR_KEY with a word other than `Fx0A` at PC, for which R91 has no row and which no run reaches
(`EveryStepKeepsTheWaitInvariant`): the model follows R77 as written (DEDUCED, log 15). The tick halts with the first
listed condition, or runs the instruction, stays WAITING_FOR_KEY and leaves the timers uncounted. -/
def Obligations.WaitingWithAnotherWordRunsIt : Prop :=
  ∀ s t : State, s.rs = .waitingForKey → s.poll.closeReq = false → (∀ x, ¬ Fetches s (.ldVxK x)) →
    step s = .next t →
    (haltCondition s.poll = .none →
      t.rs = .waitingForKey ∧ ∃ i u, Fetches s i ∧ exec i s.poll = .next u ∧ t = u.present) ∧
    (haltCondition s.poll ≠ .none → t.rs = .halted ∧ t.haltCause = haltCondition s.poll)
end

