-- ==== Sys2Proof/Laws/Decode.lean ====
section
/-! SUPPORT. The literal nibbles of an encoded word, per format of spec/30_encoding.md R65 and R66, and the
decoder at one template. -/

namespace Sys2Proof

theorem nibble_mask (v : BitVec 4) : v &&& 0xF#4 = v := BitVec.and_allOnes
theorem byte_mask (v : BitVec 8) : v &&& 0xFF#8 = v := BitVec.and_allOnes

theorem encodeXB_maskHigh (op : BitVec 4) (x : Reg) (low : Byte) (lit : Word) (h : lit = op ++ 0#4 ++ 0#8) :
    encodeXB op x low &&& 0xF000 = lit := by
  subst h
  show (op ++ nibble x ++ low : BitVec (4 + 4 + 8)) &&& (0xF#4 ++ 0#4 ++ 0#8 : BitVec (4 + 4 + 8)) =
    (op ++ 0#4 ++ 0#8 : BitVec (4 + 4 + 8))
  rw [BitVec.and_append, BitVec.and_append, nibble_mask, BitVec.and_zero, BitVec.and_zero]

theorem encodeXB_maskHighLow (op : BitVec 4) (x : Reg) (low : Byte) (lit : Word) (h : lit = op ++ 0#4 ++ low) :
    encodeXB op x low &&& 0xF0FF = lit := by
  subst h
  show (op ++ nibble x ++ low : BitVec (4 + 4 + 8)) &&& (0xF#4 ++ 0#4 ++ 0xFF#8 : BitVec (4 + 4 + 8)) =
    (op ++ 0#4 ++ low : BitVec (4 + 4 + 8))
  rw [BitVec.and_append, BitVec.and_append, nibble_mask, BitVec.and_zero, byte_mask]

theorem encodeXY_maskEnds (op : BitVec 4) (x y : Reg) (last : BitVec 4) (lit : Word)
    (h : lit = op ++ 0#4 ++ 0#4 ++ last) : encodeXY op x y last &&& 0xF00F = lit := by
  subst h
  show (op ++ nibble x ++ nibble y ++ last : BitVec (4 + 4 + 4 + 4)) &&&
      (0xF#4 ++ 0#4 ++ 0#4 ++ 0xF#4 : BitVec (4 + 4 + 4 + 4)) =
    (op ++ 0#4 ++ 0#4 ++ last : BitVec (4 + 4 + 4 + 4))
  rw [BitVec.and_append, BitVec.and_append, BitVec.and_append, nibble_mask, BitVec.and_zero, BitVec.and_zero,
    nibble_mask]

theorem encodeXY_maskHigh (op : BitVec 4) (x y : Reg) (last : BitVec 4) (lit : Word)
    (h : lit = op ++ 0#4 ++ 0#4 ++ 0#4) : encodeXY op x y last &&& 0xF000 = lit := by
  subst h
  show (op ++ nibble x ++ nibble y ++ last : BitVec (4 + 4 + 4 + 4)) &&&
      (0xF#4 ++ 0#4 ++ 0#4 ++ 0#4 : BitVec (4 + 4 + 4 + 4)) =
    (op ++ 0#4 ++ 0#4 ++ 0#4 : BitVec (4 + 4 + 4 + 4))
  rw [BitVec.and_append, BitVec.and_append, BitVec.and_append, nibble_mask, BitVec.and_zero, BitVec.and_zero,
    BitVec.and_zero]

theorem encodeNNN_maskHigh (op : BitVec 4) (nnn : BitVec 12) (lit : Word) (h : lit = op ++ 0#12) :
    encodeNNN op nnn &&& 0xF000 = lit := by
  subst h
  show (op ++ nnn : BitVec (4 + 12)) &&& (0xF#4 ++ 0#12 : BitVec (4 + 12)) = (op ++ 0#12 : BitVec (4 + 12))
  rw [BitVec.and_append, nibble_mask, BitVec.and_zero]

/-- A word that matches one row cannot match another whose literal differs under the common mask (R68). -/
theorem not_matches_other (w m l m' l' : Word) (hw : w &&& m = l) (h : l &&& m' ≠ l' &&& m) : w &&& m' ≠ l' := by
  intro hw'
  apply h
  rw [← hw, ← hw', BitVec.and_assoc, BitVec.and_assoc, BitVec.and_comm m]

/-! The fields of R64 as numbers, and the numbers of encoded words: operand round trips are then arithmetic. -/

theorem fieldX_val (w : Word) : (fieldX w).val = w.toNat / 256 % 16 := by
  simp [fieldX, Nat.shiftRight_eq_div_pow]

theorem fieldY_val (w : Word) : (fieldY w).val = w.toNat / 16 % 16 := by
  simp [fieldY, Nat.shiftRight_eq_div_pow]

theorem fieldN_val (w : Word) : (fieldN w).val = w.toNat % 16 := by
  simp [fieldN]

theorem fieldKk_toNat (w : Word) : (fieldKk w).toNat = w.toNat % 256 := by
  simp [fieldKk, BitVec.extractLsb'_toNat]

theorem fieldNnn_toNat (w : Word) : (fieldNnn w).toNat = w.toNat % 4096 := by
  simp [fieldNnn, BitVec.extractLsb'_toNat]

theorem encodeXB_toNat (op : BitVec 4) (x : Reg) (low : Byte) :
    (encodeXB op x low).toNat = op.toNat * 4096 + x.val * 256 + low.toNat := by
  have := low.isLt
  have := x.isLt
  simp only [encodeXB, nibble, BitVec.toNat_append, BitVec.toNat_ofFin]
  rw [Nat.shiftLeft_eq, Nat.shiftLeft_eq, Nat.mul_comm, Nat.mul_comm op.toNat,
    ← Nat.two_pow_add_eq_or_of_lt (by omega), ← Nat.two_pow_add_eq_or_of_lt (by omega)]
  omega

theorem encodeXY_toNat (op : BitVec 4) (x y : Reg) (last : BitVec 4) :
    (encodeXY op x y last).toNat = op.toNat * 4096 + x.val * 256 + y.val * 16 + last.toNat := by
  have := last.isLt
  have := x.isLt
  have := y.isLt
  simp only [encodeXY, nibble, BitVec.toNat_append, BitVec.toNat_ofFin]
  rw [Nat.shiftLeft_eq, Nat.shiftLeft_eq, Nat.shiftLeft_eq, Nat.mul_comm, Nat.mul_comm _ (2 ^ 4),
    Nat.mul_comm op.toNat, ← Nat.two_pow_add_eq_or_of_lt (by omega), ← Nat.two_pow_add_eq_or_of_lt (by omega),
    ← Nat.two_pow_add_eq_or_of_lt (by omega)]
  omega

theorem encodeNNN_toNat (op : BitVec 4) (nnn : BitVec 12) :
    (encodeNNN op nnn).toNat = op.toNat * 4096 + nnn.toNat := by
  have := nnn.isLt
  simp only [encodeNNN, BitVec.toNat_append]
  rw [Nat.shiftLeft_eq, Nat.mul_comm, ← Nat.two_pow_add_eq_or_of_lt (by omega)]

end Sys2Proof
end

