-- ==== Sys2Proof/Laws/Memory.lean ====
section
/-! SUPPORT. The laws of memory: what a read gives after a write, and that every operation keeps the
canonical form. -/

namespace Sys2Proof.Machine

@[simp] theorem Memory.read_nil (a : Nat) : Memory.read [] a = unlisted a := rfl

/-- A write leaves every other address alone, whatever the form of the memory. -/
theorem Memory.read_write_ne (m : Memory) (a : Nat) (x : Byte) (c : Nat) (h : c ≠ a) :
    (Memory.write m a x).read c = m.read c := by
  induction m with
  | nil =>
    unfold Memory.write
    split <;> simp [Memory.read, Ne.symm h]
  | cons e m ih =>
    obtain ⟨b, y⟩ := e
    unfold Memory.write
    split
    · split <;> simp [Memory.read, Ne.symm h]
    · split
      · subst_vars
        split <;> simp [Memory.read, Ne.symm h]
      · simp [Memory.read, ih]

/-- Below the first address the canonical form allows, a memory lists nothing. -/
theorem Memory.read_below (lo : Nat) (m : Memory) (h : Memory.wfFrom lo m = true) (a : Nat) (ha : a < lo) :
    m.read a = unlisted a := by
  induction m generalizing lo with
  | nil => rfl
  | cons e m ih =>
    obtain ⟨b, y⟩ := e
    simp only [Memory.wfFrom, Bool.and_eq_true, decide_eq_true_eq] at h
    obtain ⟨⟨⟨h1, _⟩, _⟩, h2⟩ := h
    have : b ≠ a := by omega
    simp only [Memory.read, if_neg this]
    exact ih (b + 1) h2 (by omega)

/-- In canonical form, a read after a write to the same address gives the value written. -/
theorem Memory.read_write_same (lo : Nat) (m : Memory) (h : Memory.wfFrom lo m = true) (a : Nat) (x : Byte) :
    (Memory.write m a x).read a = x := by
  induction m generalizing lo with
  | nil =>
    unfold Memory.write
    split
    · rw [Memory.read_nil]; exact Eq.symm ‹_›
    · simp [Memory.read]
  | cons e m ih =>
    obtain ⟨b, y⟩ := e
    have hw := h
    simp only [Memory.wfFrom, Bool.and_eq_true, decide_eq_true_eq] at h
    obtain ⟨_, h2⟩ := h
    unfold Memory.write
    split
    · have hb : b ≠ a := by omega
      split
      · simp only [Memory.read, if_neg hb]
        rw [Memory.read_below (b + 1) m h2 a (by omega)]; exact Eq.symm ‹_›
      · simp [Memory.read]
    · split
      · subst_vars
        split
        · rw [Memory.read_below (b + 1) m h2 b (by omega)]; exact Eq.symm ‹_›
        · simp [Memory.read]
      · simp only [Memory.read, if_neg (show b ≠ a by omega)]
        exact ih (b + 1) h2

theorem Memory.wfFrom_mono (lo lo' : Nat) (m : Memory) (h : Memory.wfFrom lo m = true) (hl : lo' ≤ lo) :
    Memory.wfFrom lo' m = true := by
  cases m with
  | nil => rfl
  | cons e m =>
    obtain ⟨b, y⟩ := e
    simp only [Memory.wfFrom, Bool.and_eq_true, decide_eq_true_eq] at h ⊢
    exact ⟨⟨⟨by omega, h.1.1.2⟩, h.1.2⟩, h.2⟩

/-- A write to an existing address keeps the canonical form. -/
theorem Memory.wfFrom_write (lo : Nat) (m : Memory) (h : Memory.wfFrom lo m = true) (a : Nat) (x : Byte)
    (hlo : lo ≤ a) (ha : a < 4096) : Memory.wfFrom lo (Memory.write m a x) = true := by
  induction m generalizing lo with
  | nil =>
    unfold Memory.write
    split
    · rfl
    · simp [Memory.wfFrom, *]
  | cons e m ih =>
    obtain ⟨b, y⟩ := e
    have hw := h
    simp only [Memory.wfFrom, Bool.and_eq_true, decide_eq_true_eq] at h
    obtain ⟨⟨⟨h1, h3⟩, h4⟩, h2⟩ := h
    unfold Memory.write
    split
    · split
      · exact hw
      · simp_all [Memory.wfFrom]
    · split
      · subst_vars
        split
        · exact Memory.wfFrom_mono (b + 1) lo m h2 (by omega)
        · simp_all [Memory.wfFrom]
      · simp only [Memory.wfFrom, Bool.and_eq_true, decide_eq_true_eq]
        exact ⟨⟨⟨h1, h3⟩, h4⟩, ih (b + 1) h2 (by omega)⟩

theorem Memory.wf_write (m : Memory) (h : m.wf = true) (a : Nat) (x : Byte) (ha : a < 4096) :
    (Memory.write m a x).wf = true := Memory.wfFrom_write 0 m h a x (Nat.zero_le a) ha

/-- Consecutive writes inside memory keep the canonical form. -/
theorem Memory.wf_writeBytes (xs : List Byte) (m : Memory) (h : m.wf = true) (a : Nat)
    (ha : a + xs.length ≤ 4096) : (Memory.writeBytes m a xs).wf = true := by
  induction xs generalizing m a with
  | nil => exact h
  | cons x xs ih =>
    simp only [List.length_cons] at ha
    exact ih _ (Memory.wf_write m h a x (by omega)) (a + 1) (by omega)

/-- Consecutive writes leave every byte outside them alone, whatever the form of the memory. -/
theorem Memory.read_writeBytes_outside (xs : List Byte) (m : Memory) (a c : Nat)
    (h : c < a ∨ a + xs.length ≤ c) : (Memory.writeBytes m a xs).read c = m.read c := by
  induction xs generalizing m a with
  | nil => rfl
  | cons x xs ih =>
    simp only [List.length_cons] at h
    simp only [Memory.writeBytes]
    rw [ih _ (a + 1) (by omega), Memory.read_write_ne m a x c (by omega)]

/-- In canonical form, byte k of consecutive writes reads back. -/
theorem Memory.read_writeBytes_inside (xs : List Byte) (m : Memory) (hm : m.wf = true) (a k : Nat)
    (hk : k < xs.length) (ha : a + xs.length ≤ 4096) : (Memory.writeBytes m a xs).read (a + k) = xs[k] := by
  induction xs generalizing m a k with
  | nil => simp at hk
  | cons x xs ih =>
    simp only [List.length_cons] at hk ha
    simp only [Memory.writeBytes]
    cases k with
    | zero =>
      rw [Memory.read_writeBytes_outside xs _ (a + 1) (a + 0) (by omega)]
      simpa using Memory.read_write_same 0 m hm a x
    | succ k =>
      have := ih (Memory.write m a x) (Memory.wf_write m hm a x (by omega)) (a + 1) k (by omega) (by omega)
      rw [show a + (k + 1) = a + 1 + k by omega, this]; simp

end Sys2Proof.Machine
end

