-- ==== Sys2Proof/Laws/State.lean ====
section
/-! SUPPORT. One lemma per field per update of the state, so that no proof unfolds a record update. -/

namespace Sys2Proof.Machine.State

variable (s : State)

/-! setMem -/
@[simp] theorem setMem_v (m : Memory) : (s.setMem m).v = s.v := rfl
@[simp] theorem setMem_i (m : Memory) : (s.setMem m).i = s.i := rfl
@[simp] theorem setMem_pc (m : Memory) : (s.setMem m).pc = s.pc := rfl
@[simp] theorem setMem_sp (m : Memory) : (s.setMem m).sp = s.sp := rfl
@[simp] theorem setMem_stack (m : Memory) : (s.setMem m).stack = s.stack := rfl
@[simp] theorem setMem_dt (m : Memory) : (s.setMem m).dt = s.dt := rfl
@[simp] theorem setMem_st (m : Memory) : (s.setMem m).st = s.st := rfl
@[simp] theorem setMem_rs (m : Memory) : (s.setMem m).rs = s.rs := rfl
@[simp] theorem setMem_haltCause (m : Memory) : (s.setMem m).haltCause = s.haltCause := rfl
@[simp] theorem setMem_faultPc (m : Memory) : (s.setMem m).faultPc = s.faultPc := rfl
@[simp] theorem setMem_faultWord (m : Memory) : (s.setMem m).faultWord = s.faultWord := rfl
@[simp] theorem setMem_diagOvf (m : Memory) : (s.setMem m).diagOvf = s.diagOvf := rfl
@[simp] theorem setMem_diagUnf (m : Memory) : (s.setMem m).diagUnf = s.diagUnf := rfl
@[simp] theorem setMem_disp (m : Memory) : (s.setMem m).disp = s.disp := rfl
@[simp] theorem setMem_mem (m : Memory) : (s.setMem m).mem = m := rfl
@[simp] theorem setMem_keys (m : Memory) : (s.setMem m).keys = s.keys := rfl
@[simp] theorem setMem_closeReq (m : Memory) : (s.setMem m).closeReq = s.closeReq := rfl
@[simp] theorem setMem_draw (m : Memory) : (s.setMem m).draw = s.draw := rfl
@[simp] theorem setMem_script (m : Memory) : (s.setMem m).script = s.script := rfl
@[simp] theorem setMem_drawCount (m : Memory) : (s.setMem m).drawCount = s.drawCount := rfl
@[simp] theorem setMem_frames (m : Memory) : (s.setMem m).frames = s.frames := rfl
@[simp] theorem setMem_params (m : Memory) : (s.setMem m).params = s.params := rfl
@[simp] theorem setMem_getV (m : Memory) (q : Reg) : (s.setMem m).getV q = s.getV q := rfl

/-! setV -/
@[simp] theorem setV_v (r : Reg) (x : Byte) : (s.setV r x).v = s.v.set r.val x := rfl
@[simp] theorem setV_i (r : Reg) (x : Byte) : (s.setV r x).i = s.i := rfl
@[simp] theorem setV_pc (r : Reg) (x : Byte) : (s.setV r x).pc = s.pc := rfl
@[simp] theorem setV_sp (r : Reg) (x : Byte) : (s.setV r x).sp = s.sp := rfl
@[simp] theorem setV_stack (r : Reg) (x : Byte) : (s.setV r x).stack = s.stack := rfl
@[simp] theorem setV_dt (r : Reg) (x : Byte) : (s.setV r x).dt = s.dt := rfl
@[simp] theorem setV_st (r : Reg) (x : Byte) : (s.setV r x).st = s.st := rfl
@[simp] theorem setV_rs (r : Reg) (x : Byte) : (s.setV r x).rs = s.rs := rfl
@[simp] theorem setV_haltCause (r : Reg) (x : Byte) : (s.setV r x).haltCause = s.haltCause := rfl
@[simp] theorem setV_faultPc (r : Reg) (x : Byte) : (s.setV r x).faultPc = s.faultPc := rfl
@[simp] theorem setV_faultWord (r : Reg) (x : Byte) : (s.setV r x).faultWord = s.faultWord := rfl
@[simp] theorem setV_diagOvf (r : Reg) (x : Byte) : (s.setV r x).diagOvf = s.diagOvf := rfl
@[simp] theorem setV_diagUnf (r : Reg) (x : Byte) : (s.setV r x).diagUnf = s.diagUnf := rfl
@[simp] theorem setV_disp (r : Reg) (x : Byte) : (s.setV r x).disp = s.disp := rfl
@[simp] theorem setV_mem (r : Reg) (x : Byte) : (s.setV r x).mem = s.mem := rfl
@[simp] theorem setV_keys (r : Reg) (x : Byte) : (s.setV r x).keys = s.keys := rfl
@[simp] theorem setV_closeReq (r : Reg) (x : Byte) : (s.setV r x).closeReq = s.closeReq := rfl
@[simp] theorem setV_draw (r : Reg) (x : Byte) : (s.setV r x).draw = s.draw := rfl
@[simp] theorem setV_script (r : Reg) (x : Byte) : (s.setV r x).script = s.script := rfl
@[simp] theorem setV_drawCount (r : Reg) (x : Byte) : (s.setV r x).drawCount = s.drawCount := rfl
@[simp] theorem setV_frames (r : Reg) (x : Byte) : (s.setV r x).frames = s.frames := rfl
@[simp] theorem setV_params (r : Reg) (x : Byte) : (s.setV r x).params = s.params := rfl
@[simp] theorem setV_readByte (r : Reg) (x : Byte) (n : Nat) : (s.setV r x).readByte n = s.readByte n := rfl

/-! setRegs -/
@[simp] theorem setRegs_v (w : Vector Byte 16) : (s.setRegs w).v = w := rfl
@[simp] theorem setRegs_i (w : Vector Byte 16) : (s.setRegs w).i = s.i := rfl
@[simp] theorem setRegs_pc (w : Vector Byte 16) : (s.setRegs w).pc = s.pc := rfl
@[simp] theorem setRegs_sp (w : Vector Byte 16) : (s.setRegs w).sp = s.sp := rfl
@[simp] theorem setRegs_stack (w : Vector Byte 16) : (s.setRegs w).stack = s.stack := rfl
@[simp] theorem setRegs_dt (w : Vector Byte 16) : (s.setRegs w).dt = s.dt := rfl
@[simp] theorem setRegs_st (w : Vector Byte 16) : (s.setRegs w).st = s.st := rfl
@[simp] theorem setRegs_rs (w : Vector Byte 16) : (s.setRegs w).rs = s.rs := rfl
@[simp] theorem setRegs_haltCause (w : Vector Byte 16) : (s.setRegs w).haltCause = s.haltCause := rfl
@[simp] theorem setRegs_faultPc (w : Vector Byte 16) : (s.setRegs w).faultPc = s.faultPc := rfl
@[simp] theorem setRegs_faultWord (w : Vector Byte 16) : (s.setRegs w).faultWord = s.faultWord := rfl
@[simp] theorem setRegs_diagOvf (w : Vector Byte 16) : (s.setRegs w).diagOvf = s.diagOvf := rfl
@[simp] theorem setRegs_diagUnf (w : Vector Byte 16) : (s.setRegs w).diagUnf = s.diagUnf := rfl
@[simp] theorem setRegs_disp (w : Vector Byte 16) : (s.setRegs w).disp = s.disp := rfl
@[simp] theorem setRegs_mem (w : Vector Byte 16) : (s.setRegs w).mem = s.mem := rfl
@[simp] theorem setRegs_keys (w : Vector Byte 16) : (s.setRegs w).keys = s.keys := rfl
@[simp] theorem setRegs_closeReq (w : Vector Byte 16) : (s.setRegs w).closeReq = s.closeReq := rfl
@[simp] theorem setRegs_draw (w : Vector Byte 16) : (s.setRegs w).draw = s.draw := rfl
@[simp] theorem setRegs_script (w : Vector Byte 16) : (s.setRegs w).script = s.script := rfl
@[simp] theorem setRegs_drawCount (w : Vector Byte 16) : (s.setRegs w).drawCount = s.drawCount := rfl
@[simp] theorem setRegs_frames (w : Vector Byte 16) : (s.setRegs w).frames = s.frames := rfl
@[simp] theorem setRegs_params (w : Vector Byte 16) : (s.setRegs w).params = s.params := rfl
@[simp] theorem setRegs_readByte (w : Vector Byte 16) (n : Nat) : (s.setRegs w).readByte n = s.readByte n := rfl

/-! setI -/
@[simp] theorem setI_v (a : Word) : (s.setI a).v = s.v := rfl
@[simp] theorem setI_i (a : Word) : (s.setI a).i = a := rfl
@[simp] theorem setI_pc (a : Word) : (s.setI a).pc = s.pc := rfl
@[simp] theorem setI_sp (a : Word) : (s.setI a).sp = s.sp := rfl
@[simp] theorem setI_stack (a : Word) : (s.setI a).stack = s.stack := rfl
@[simp] theorem setI_dt (a : Word) : (s.setI a).dt = s.dt := rfl
@[simp] theorem setI_st (a : Word) : (s.setI a).st = s.st := rfl
@[simp] theorem setI_rs (a : Word) : (s.setI a).rs = s.rs := rfl
@[simp] theorem setI_haltCause (a : Word) : (s.setI a).haltCause = s.haltCause := rfl
@[simp] theorem setI_faultPc (a : Word) : (s.setI a).faultPc = s.faultPc := rfl
@[simp] theorem setI_faultWord (a : Word) : (s.setI a).faultWord = s.faultWord := rfl
@[simp] theorem setI_diagOvf (a : Word) : (s.setI a).diagOvf = s.diagOvf := rfl
@[simp] theorem setI_diagUnf (a : Word) : (s.setI a).diagUnf = s.diagUnf := rfl
@[simp] theorem setI_disp (a : Word) : (s.setI a).disp = s.disp := rfl
@[simp] theorem setI_mem (a : Word) : (s.setI a).mem = s.mem := rfl
@[simp] theorem setI_keys (a : Word) : (s.setI a).keys = s.keys := rfl
@[simp] theorem setI_closeReq (a : Word) : (s.setI a).closeReq = s.closeReq := rfl
@[simp] theorem setI_draw (a : Word) : (s.setI a).draw = s.draw := rfl
@[simp] theorem setI_script (a : Word) : (s.setI a).script = s.script := rfl
@[simp] theorem setI_drawCount (a : Word) : (s.setI a).drawCount = s.drawCount := rfl
@[simp] theorem setI_frames (a : Word) : (s.setI a).frames = s.frames := rfl
@[simp] theorem setI_params (a : Word) : (s.setI a).params = s.params := rfl
@[simp] theorem setI_getV (a : Word) (q : Reg) : (s.setI a).getV q = s.getV q := rfl
@[simp] theorem setI_readByte (a : Word) (n : Nat) : (s.setI a).readByte n = s.readByte n := rfl

/-! setPc -/
@[simp] theorem setPc_v (a : Word) : (s.setPc a).v = s.v := rfl
@[simp] theorem setPc_i (a : Word) : (s.setPc a).i = s.i := rfl
@[simp] theorem setPc_pc (a : Word) : (s.setPc a).pc = a := rfl
@[simp] theorem setPc_sp (a : Word) : (s.setPc a).sp = s.sp := rfl
@[simp] theorem setPc_stack (a : Word) : (s.setPc a).stack = s.stack := rfl
@[simp] theorem setPc_dt (a : Word) : (s.setPc a).dt = s.dt := rfl
@[simp] theorem setPc_st (a : Word) : (s.setPc a).st = s.st := rfl
@[simp] theorem setPc_rs (a : Word) : (s.setPc a).rs = s.rs := rfl
@[simp] theorem setPc_haltCause (a : Word) : (s.setPc a).haltCause = s.haltCause := rfl
@[simp] theorem setPc_faultPc (a : Word) : (s.setPc a).faultPc = s.faultPc := rfl
@[simp] theorem setPc_faultWord (a : Word) : (s.setPc a).faultWord = s.faultWord := rfl
@[simp] theorem setPc_diagOvf (a : Word) : (s.setPc a).diagOvf = s.diagOvf := rfl
@[simp] theorem setPc_diagUnf (a : Word) : (s.setPc a).diagUnf = s.diagUnf := rfl
@[simp] theorem setPc_disp (a : Word) : (s.setPc a).disp = s.disp := rfl
@[simp] theorem setPc_mem (a : Word) : (s.setPc a).mem = s.mem := rfl
@[simp] theorem setPc_keys (a : Word) : (s.setPc a).keys = s.keys := rfl
@[simp] theorem setPc_closeReq (a : Word) : (s.setPc a).closeReq = s.closeReq := rfl
@[simp] theorem setPc_draw (a : Word) : (s.setPc a).draw = s.draw := rfl
@[simp] theorem setPc_script (a : Word) : (s.setPc a).script = s.script := rfl
@[simp] theorem setPc_drawCount (a : Word) : (s.setPc a).drawCount = s.drawCount := rfl
@[simp] theorem setPc_frames (a : Word) : (s.setPc a).frames = s.frames := rfl
@[simp] theorem setPc_params (a : Word) : (s.setPc a).params = s.params := rfl
@[simp] theorem setPc_getV (a : Word) (q : Reg) : (s.setPc a).getV q = s.getV q := rfl
@[simp] theorem setPc_readByte (a : Word) (n : Nat) : (s.setPc a).readByte n = s.readByte n := rfl

/-! setDt -/
@[simp] theorem setDt_v (x : Byte) : (s.setDt x).v = s.v := rfl
@[simp] theorem setDt_i (x : Byte) : (s.setDt x).i = s.i := rfl
@[simp] theorem setDt_pc (x : Byte) : (s.setDt x).pc = s.pc := rfl
@[simp] theorem setDt_sp (x : Byte) : (s.setDt x).sp = s.sp := rfl
@[simp] theorem setDt_stack (x : Byte) : (s.setDt x).stack = s.stack := rfl
@[simp] theorem setDt_dt (x : Byte) : (s.setDt x).dt = x := rfl
@[simp] theorem setDt_st (x : Byte) : (s.setDt x).st = s.st := rfl
@[simp] theorem setDt_rs (x : Byte) : (s.setDt x).rs = s.rs := rfl
@[simp] theorem setDt_haltCause (x : Byte) : (s.setDt x).haltCause = s.haltCause := rfl
@[simp] theorem setDt_faultPc (x : Byte) : (s.setDt x).faultPc = s.faultPc := rfl
@[simp] theorem setDt_faultWord (x : Byte) : (s.setDt x).faultWord = s.faultWord := rfl
@[simp] theorem setDt_diagOvf (x : Byte) : (s.setDt x).diagOvf = s.diagOvf := rfl
@[simp] theorem setDt_diagUnf (x : Byte) : (s.setDt x).diagUnf = s.diagUnf := rfl
@[simp] theorem setDt_disp (x : Byte) : (s.setDt x).disp = s.disp := rfl
@[simp] theorem setDt_mem (x : Byte) : (s.setDt x).mem = s.mem := rfl
@[simp] theorem setDt_keys (x : Byte) : (s.setDt x).keys = s.keys := rfl
@[simp] theorem setDt_closeReq (x : Byte) : (s.setDt x).closeReq = s.closeReq := rfl
@[simp] theorem setDt_draw (x : Byte) : (s.setDt x).draw = s.draw := rfl
@[simp] theorem setDt_script (x : Byte) : (s.setDt x).script = s.script := rfl
@[simp] theorem setDt_drawCount (x : Byte) : (s.setDt x).drawCount = s.drawCount := rfl
@[simp] theorem setDt_frames (x : Byte) : (s.setDt x).frames = s.frames := rfl
@[simp] theorem setDt_params (x : Byte) : (s.setDt x).params = s.params := rfl
@[simp] theorem setDt_getV (x : Byte) (q : Reg) : (s.setDt x).getV q = s.getV q := rfl
@[simp] theorem setDt_readByte (x : Byte) (n : Nat) : (s.setDt x).readByte n = s.readByte n := rfl

/-! setSt -/
@[simp] theorem setSt_v (x : Byte) : (s.setSt x).v = s.v := rfl
@[simp] theorem setSt_i (x : Byte) : (s.setSt x).i = s.i := rfl
@[simp] theorem setSt_pc (x : Byte) : (s.setSt x).pc = s.pc := rfl
@[simp] theorem setSt_sp (x : Byte) : (s.setSt x).sp = s.sp := rfl
@[simp] theorem setSt_stack (x : Byte) : (s.setSt x).stack = s.stack := rfl
@[simp] theorem setSt_dt (x : Byte) : (s.setSt x).dt = s.dt := rfl
@[simp] theorem setSt_st (x : Byte) : (s.setSt x).st = x := rfl
@[simp] theorem setSt_rs (x : Byte) : (s.setSt x).rs = s.rs := rfl
@[simp] theorem setSt_haltCause (x : Byte) : (s.setSt x).haltCause = s.haltCause := rfl
@[simp] theorem setSt_faultPc (x : Byte) : (s.setSt x).faultPc = s.faultPc := rfl
@[simp] theorem setSt_faultWord (x : Byte) : (s.setSt x).faultWord = s.faultWord := rfl
@[simp] theorem setSt_diagOvf (x : Byte) : (s.setSt x).diagOvf = s.diagOvf := rfl
@[simp] theorem setSt_diagUnf (x : Byte) : (s.setSt x).diagUnf = s.diagUnf := rfl
@[simp] theorem setSt_disp (x : Byte) : (s.setSt x).disp = s.disp := rfl
@[simp] theorem setSt_mem (x : Byte) : (s.setSt x).mem = s.mem := rfl
@[simp] theorem setSt_keys (x : Byte) : (s.setSt x).keys = s.keys := rfl
@[simp] theorem setSt_closeReq (x : Byte) : (s.setSt x).closeReq = s.closeReq := rfl
@[simp] theorem setSt_draw (x : Byte) : (s.setSt x).draw = s.draw := rfl
@[simp] theorem setSt_script (x : Byte) : (s.setSt x).script = s.script := rfl
@[simp] theorem setSt_drawCount (x : Byte) : (s.setSt x).drawCount = s.drawCount := rfl
@[simp] theorem setSt_frames (x : Byte) : (s.setSt x).frames = s.frames := rfl
@[simp] theorem setSt_params (x : Byte) : (s.setSt x).params = s.params := rfl
@[simp] theorem setSt_getV (x : Byte) (q : Reg) : (s.setSt x).getV q = s.getV q := rfl
@[simp] theorem setSt_readByte (x : Byte) (n : Nat) : (s.setSt x).readByte n = s.readByte n := rfl

/-! setRs -/
@[simp] theorem setRs_v (r : RunState) : (s.setRs r).v = s.v := rfl
@[simp] theorem setRs_i (r : RunState) : (s.setRs r).i = s.i := rfl
@[simp] theorem setRs_pc (r : RunState) : (s.setRs r).pc = s.pc := rfl
@[simp] theorem setRs_sp (r : RunState) : (s.setRs r).sp = s.sp := rfl
@[simp] theorem setRs_stack (r : RunState) : (s.setRs r).stack = s.stack := rfl
@[simp] theorem setRs_dt (r : RunState) : (s.setRs r).dt = s.dt := rfl
@[simp] theorem setRs_st (r : RunState) : (s.setRs r).st = s.st := rfl
@[simp] theorem setRs_rs (r : RunState) : (s.setRs r).rs = r := rfl
@[simp] theorem setRs_haltCause (r : RunState) : (s.setRs r).haltCause = s.haltCause := rfl
@[simp] theorem setRs_faultPc (r : RunState) : (s.setRs r).faultPc = s.faultPc := rfl
@[simp] theorem setRs_faultWord (r : RunState) : (s.setRs r).faultWord = s.faultWord := rfl
@[simp] theorem setRs_diagOvf (r : RunState) : (s.setRs r).diagOvf = s.diagOvf := rfl
@[simp] theorem setRs_diagUnf (r : RunState) : (s.setRs r).diagUnf = s.diagUnf := rfl
@[simp] theorem setRs_disp (r : RunState) : (s.setRs r).disp = s.disp := rfl
@[simp] theorem setRs_mem (r : RunState) : (s.setRs r).mem = s.mem := rfl
@[simp] theorem setRs_keys (r : RunState) : (s.setRs r).keys = s.keys := rfl
@[simp] theorem setRs_closeReq (r : RunState) : (s.setRs r).closeReq = s.closeReq := rfl
@[simp] theorem setRs_draw (r : RunState) : (s.setRs r).draw = s.draw := rfl
@[simp] theorem setRs_script (r : RunState) : (s.setRs r).script = s.script := rfl
@[simp] theorem setRs_drawCount (r : RunState) : (s.setRs r).drawCount = s.drawCount := rfl
@[simp] theorem setRs_frames (r : RunState) : (s.setRs r).frames = s.frames := rfl
@[simp] theorem setRs_params (r : RunState) : (s.setRs r).params = s.params := rfl
@[simp] theorem setRs_getV (r : RunState) (q : Reg) : (s.setRs r).getV q = s.getV q := rfl
@[simp] theorem setRs_readByte (r : RunState) (n : Nat) : (s.setRs r).readByte n = s.readByte n := rfl

/-! setDisp -/
@[simp] theorem setDisp_v (d : Display) : (s.setDisp d).v = s.v := rfl
@[simp] theorem setDisp_i (d : Display) : (s.setDisp d).i = s.i := rfl
@[simp] theorem setDisp_pc (d : Display) : (s.setDisp d).pc = s.pc := rfl
@[simp] theorem setDisp_sp (d : Display) : (s.setDisp d).sp = s.sp := rfl
@[simp] theorem setDisp_stack (d : Display) : (s.setDisp d).stack = s.stack := rfl
@[simp] theorem setDisp_dt (d : Display) : (s.setDisp d).dt = s.dt := rfl
@[simp] theorem setDisp_st (d : Display) : (s.setDisp d).st = s.st := rfl
@[simp] theorem setDisp_rs (d : Display) : (s.setDisp d).rs = s.rs := rfl
@[simp] theorem setDisp_haltCause (d : Display) : (s.setDisp d).haltCause = s.haltCause := rfl
@[simp] theorem setDisp_faultPc (d : Display) : (s.setDisp d).faultPc = s.faultPc := rfl
@[simp] theorem setDisp_faultWord (d : Display) : (s.setDisp d).faultWord = s.faultWord := rfl
@[simp] theorem setDisp_diagOvf (d : Display) : (s.setDisp d).diagOvf = s.diagOvf := rfl
@[simp] theorem setDisp_diagUnf (d : Display) : (s.setDisp d).diagUnf = s.diagUnf := rfl
@[simp] theorem setDisp_disp (d : Display) : (s.setDisp d).disp = d := rfl
@[simp] theorem setDisp_mem (d : Display) : (s.setDisp d).mem = s.mem := rfl
@[simp] theorem setDisp_keys (d : Display) : (s.setDisp d).keys = s.keys := rfl
@[simp] theorem setDisp_closeReq (d : Display) : (s.setDisp d).closeReq = s.closeReq := rfl
@[simp] theorem setDisp_draw (d : Display) : (s.setDisp d).draw = s.draw := rfl
@[simp] theorem setDisp_script (d : Display) : (s.setDisp d).script = s.script := rfl
@[simp] theorem setDisp_drawCount (d : Display) : (s.setDisp d).drawCount = s.drawCount := rfl
@[simp] theorem setDisp_frames (d : Display) : (s.setDisp d).frames = s.frames := rfl
@[simp] theorem setDisp_params (d : Display) : (s.setDisp d).params = s.params := rfl
@[simp] theorem setDisp_getV (d : Display) (q : Reg) : (s.setDisp d).getV q = s.getV q := rfl
@[simp] theorem setDisp_readByte (d : Display) (n : Nat) : (s.setDisp d).readByte n = s.readByte n := rfl

/-! push -/
@[simp] theorem push_v (a : Word) (h : s.sp.toNat < 16) : (s.push a h).v = s.v := rfl
@[simp] theorem push_i (a : Word) (h : s.sp.toNat < 16) : (s.push a h).i = s.i := rfl
@[simp] theorem push_pc (a : Word) (h : s.sp.toNat < 16) : (s.push a h).pc = s.pc := rfl
@[simp] theorem push_sp (a : Word) (h : s.sp.toNat < 16) : (s.push a h).sp = s.sp + 1 := rfl
@[simp] theorem push_stack (a : Word) (h : s.sp.toNat < 16) : (s.push a h).stack = s.stack.set s.sp.toNat a := rfl
@[simp] theorem push_dt (a : Word) (h : s.sp.toNat < 16) : (s.push a h).dt = s.dt := rfl
@[simp] theorem push_st (a : Word) (h : s.sp.toNat < 16) : (s.push a h).st = s.st := rfl
@[simp] theorem push_rs (a : Word) (h : s.sp.toNat < 16) : (s.push a h).rs = s.rs := rfl
@[simp] theorem push_haltCause (a : Word) (h : s.sp.toNat < 16) : (s.push a h).haltCause = s.haltCause := rfl
@[simp] theorem push_faultPc (a : Word) (h : s.sp.toNat < 16) : (s.push a h).faultPc = s.faultPc := rfl
@[simp] theorem push_faultWord (a : Word) (h : s.sp.toNat < 16) : (s.push a h).faultWord = s.faultWord := rfl
@[simp] theorem push_diagOvf (a : Word) (h : s.sp.toNat < 16) : (s.push a h).diagOvf = s.diagOvf := rfl
@[simp] theorem push_diagUnf (a : Word) (h : s.sp.toNat < 16) : (s.push a h).diagUnf = s.diagUnf := rfl
@[simp] theorem push_disp (a : Word) (h : s.sp.toNat < 16) : (s.push a h).disp = s.disp := rfl
@[simp] theorem push_mem (a : Word) (h : s.sp.toNat < 16) : (s.push a h).mem = s.mem := rfl
@[simp] theorem push_keys (a : Word) (h : s.sp.toNat < 16) : (s.push a h).keys = s.keys := rfl
@[simp] theorem push_closeReq (a : Word) (h : s.sp.toNat < 16) : (s.push a h).closeReq = s.closeReq := rfl
@[simp] theorem push_draw (a : Word) (h : s.sp.toNat < 16) : (s.push a h).draw = s.draw := rfl
@[simp] theorem push_script (a : Word) (h : s.sp.toNat < 16) : (s.push a h).script = s.script := rfl
@[simp] theorem push_drawCount (a : Word) (h : s.sp.toNat < 16) : (s.push a h).drawCount = s.drawCount := rfl
@[simp] theorem push_frames (a : Word) (h : s.sp.toNat < 16) : (s.push a h).frames = s.frames := rfl
@[simp] theorem push_params (a : Word) (h : s.sp.toNat < 16) : (s.push a h).params = s.params := rfl
@[simp] theorem push_getV (a : Word) (h : s.sp.toNat < 16) (q : Reg) : (s.push a h).getV q = s.getV q := rfl
@[simp] theorem push_readByte (a : Word) (h : s.sp.toNat < 16) (n : Nat) : (s.push a h).readByte n = s.readByte n := rfl

/-! dropTop -/
@[simp] theorem dropTop_v : (s.dropTop).v = s.v := rfl
@[simp] theorem dropTop_i : (s.dropTop).i = s.i := rfl
@[simp] theorem dropTop_pc : (s.dropTop).pc = s.pc := rfl
@[simp] theorem dropTop_sp : (s.dropTop).sp = s.sp - 1 := rfl
@[simp] theorem dropTop_stack : (s.dropTop).stack = s.stack := rfl
@[simp] theorem dropTop_dt : (s.dropTop).dt = s.dt := rfl
@[simp] theorem dropTop_st : (s.dropTop).st = s.st := rfl
@[simp] theorem dropTop_rs : (s.dropTop).rs = s.rs := rfl
@[simp] theorem dropTop_haltCause : (s.dropTop).haltCause = s.haltCause := rfl
@[simp] theorem dropTop_faultPc : (s.dropTop).faultPc = s.faultPc := rfl
@[simp] theorem dropTop_faultWord : (s.dropTop).faultWord = s.faultWord := rfl
@[simp] theorem dropTop_diagOvf : (s.dropTop).diagOvf = s.diagOvf := rfl
@[simp] theorem dropTop_diagUnf : (s.dropTop).diagUnf = s.diagUnf := rfl
@[simp] theorem dropTop_disp : (s.dropTop).disp = s.disp := rfl
@[simp] theorem dropTop_mem : (s.dropTop).mem = s.mem := rfl
@[simp] theorem dropTop_keys : (s.dropTop).keys = s.keys := rfl
@[simp] theorem dropTop_closeReq : (s.dropTop).closeReq = s.closeReq := rfl
@[simp] theorem dropTop_draw : (s.dropTop).draw = s.draw := rfl
@[simp] theorem dropTop_script : (s.dropTop).script = s.script := rfl
@[simp] theorem dropTop_drawCount : (s.dropTop).drawCount = s.drawCount := rfl
@[simp] theorem dropTop_frames : (s.dropTop).frames = s.frames := rfl
@[simp] theorem dropTop_params : (s.dropTop).params = s.params := rfl
@[simp] theorem dropTop_getV (q : Reg) : (s.dropTop).getV q = s.getV q := rfl
@[simp] theorem dropTop_readByte (n : Nat) : (s.dropTop).readByte n = s.readByte n := rfl

/-! raiseHalt -/
@[simp] theorem raiseHalt_v (c : HaltCause) (w : Word) : (s.raiseHalt c w).v = s.v := rfl
@[simp] theorem raiseHalt_i (c : HaltCause) (w : Word) : (s.raiseHalt c w).i = s.i := rfl
@[simp] theorem raiseHalt_pc (c : HaltCause) (w : Word) : (s.raiseHalt c w).pc = s.pc := rfl
@[simp] theorem raiseHalt_sp (c : HaltCause) (w : Word) : (s.raiseHalt c w).sp = s.sp := rfl
@[simp] theorem raiseHalt_stack (c : HaltCause) (w : Word) : (s.raiseHalt c w).stack = s.stack := rfl
@[simp] theorem raiseHalt_dt (c : HaltCause) (w : Word) : (s.raiseHalt c w).dt = s.dt := rfl
@[simp] theorem raiseHalt_st (c : HaltCause) (w : Word) : (s.raiseHalt c w).st = s.st := rfl
@[simp] theorem raiseHalt_rs (c : HaltCause) (w : Word) : (s.raiseHalt c w).rs = .halted := rfl
@[simp] theorem raiseHalt_haltCause (c : HaltCause) (w : Word) : (s.raiseHalt c w).haltCause = c := rfl
@[simp] theorem raiseHalt_faultPc (c : HaltCause) (w : Word) : (s.raiseHalt c w).faultPc = s.pc := rfl
@[simp] theorem raiseHalt_faultWord (c : HaltCause) (w : Word) : (s.raiseHalt c w).faultWord = w := rfl
@[simp] theorem raiseHalt_diagOvf (c : HaltCause) (w : Word) : (s.raiseHalt c w).diagOvf = s.diagOvf := rfl
@[simp] theorem raiseHalt_diagUnf (c : HaltCause) (w : Word) : (s.raiseHalt c w).diagUnf = s.diagUnf := rfl
@[simp] theorem raiseHalt_disp (c : HaltCause) (w : Word) : (s.raiseHalt c w).disp = s.disp := rfl
@[simp] theorem raiseHalt_mem (c : HaltCause) (w : Word) : (s.raiseHalt c w).mem = s.mem := rfl
@[simp] theorem raiseHalt_keys (c : HaltCause) (w : Word) : (s.raiseHalt c w).keys = s.keys := rfl
@[simp] theorem raiseHalt_closeReq (c : HaltCause) (w : Word) : (s.raiseHalt c w).closeReq = s.closeReq := rfl
@[simp] theorem raiseHalt_draw (c : HaltCause) (w : Word) : (s.raiseHalt c w).draw = s.draw := rfl
@[simp] theorem raiseHalt_script (c : HaltCause) (w : Word) : (s.raiseHalt c w).script = s.script := rfl
@[simp] theorem raiseHalt_drawCount (c : HaltCause) (w : Word) : (s.raiseHalt c w).drawCount = s.drawCount := rfl
@[simp] theorem raiseHalt_frames (c : HaltCause) (w : Word) : (s.raiseHalt c w).frames = s.frames := rfl
@[simp] theorem raiseHalt_params (c : HaltCause) (w : Word) : (s.raiseHalt c w).params = s.params := rfl
@[simp] theorem raiseHalt_getV (c : HaltCause) (w : Word) (q : Reg) : (s.raiseHalt c w).getV q = s.getV q := rfl
@[simp] theorem raiseHalt_readByte (c : HaltCause) (w : Word) (n : Nat) : (s.raiseHalt c w).readByte n = s.readByte n := rfl

/-! haltOnClose -/
@[simp] theorem haltOnClose_v : (s.haltOnClose).v = s.v := rfl
@[simp] theorem haltOnClose_i : (s.haltOnClose).i = s.i := rfl
@[simp] theorem haltOnClose_pc : (s.haltOnClose).pc = s.pc := rfl
@[simp] theorem haltOnClose_sp : (s.haltOnClose).sp = s.sp := rfl
@[simp] theorem haltOnClose_stack : (s.haltOnClose).stack = s.stack := rfl
@[simp] theorem haltOnClose_dt : (s.haltOnClose).dt = s.dt := rfl
@[simp] theorem haltOnClose_st : (s.haltOnClose).st = s.st := rfl
@[simp] theorem haltOnClose_rs : (s.haltOnClose).rs = .halted := rfl
@[simp] theorem haltOnClose_haltCause : (s.haltOnClose).haltCause = .closeRequested := rfl
@[simp] theorem haltOnClose_faultPc : (s.haltOnClose).faultPc = s.faultPc := rfl
@[simp] theorem haltOnClose_faultWord : (s.haltOnClose).faultWord = s.faultWord := rfl
@[simp] theorem haltOnClose_diagOvf : (s.haltOnClose).diagOvf = s.diagOvf := rfl
@[simp] theorem haltOnClose_diagUnf : (s.haltOnClose).diagUnf = s.diagUnf := rfl
@[simp] theorem haltOnClose_disp : (s.haltOnClose).disp = s.disp := rfl
@[simp] theorem haltOnClose_mem : (s.haltOnClose).mem = s.mem := rfl
@[simp] theorem haltOnClose_keys : (s.haltOnClose).keys = s.keys := rfl
@[simp] theorem haltOnClose_closeReq : (s.haltOnClose).closeReq = s.closeReq := rfl
@[simp] theorem haltOnClose_draw : (s.haltOnClose).draw = s.draw := rfl
@[simp] theorem haltOnClose_script : (s.haltOnClose).script = s.script := rfl
@[simp] theorem haltOnClose_drawCount : (s.haltOnClose).drawCount = s.drawCount := rfl
@[simp] theorem haltOnClose_frames : (s.haltOnClose).frames = s.frames := rfl
@[simp] theorem haltOnClose_params : (s.haltOnClose).params = s.params := rfl
@[simp] theorem haltOnClose_getV (q : Reg) : (s.haltOnClose).getV q = s.getV q := rfl
@[simp] theorem haltOnClose_readByte (n : Nat) : (s.haltOnClose).readByte n = s.readByte n := rfl

/-! reportOverflow -/
@[simp] theorem reportOverflow_v (w : Word) : (s.reportOverflow w).v = s.v := rfl
@[simp] theorem reportOverflow_i (w : Word) : (s.reportOverflow w).i = s.i := rfl
@[simp] theorem reportOverflow_pc (w : Word) : (s.reportOverflow w).pc = s.pc := rfl
@[simp] theorem reportOverflow_sp (w : Word) : (s.reportOverflow w).sp = s.sp := rfl
@[simp] theorem reportOverflow_stack (w : Word) : (s.reportOverflow w).stack = s.stack := rfl
@[simp] theorem reportOverflow_dt (w : Word) : (s.reportOverflow w).dt = s.dt := rfl
@[simp] theorem reportOverflow_st (w : Word) : (s.reportOverflow w).st = s.st := rfl
@[simp] theorem reportOverflow_rs (w : Word) : (s.reportOverflow w).rs = s.rs := rfl
@[simp] theorem reportOverflow_haltCause (w : Word) : (s.reportOverflow w).haltCause = s.haltCause := rfl
@[simp] theorem reportOverflow_faultPc (w : Word) : (s.reportOverflow w).faultPc = s.pc := rfl
@[simp] theorem reportOverflow_faultWord (w : Word) : (s.reportOverflow w).faultWord = w := rfl
@[simp] theorem reportOverflow_diagOvf (w : Word) : (s.reportOverflow w).diagOvf = true := rfl
@[simp] theorem reportOverflow_diagUnf (w : Word) : (s.reportOverflow w).diagUnf = s.diagUnf := rfl
@[simp] theorem reportOverflow_disp (w : Word) : (s.reportOverflow w).disp = s.disp := rfl
@[simp] theorem reportOverflow_mem (w : Word) : (s.reportOverflow w).mem = s.mem := rfl
@[simp] theorem reportOverflow_keys (w : Word) : (s.reportOverflow w).keys = s.keys := rfl
@[simp] theorem reportOverflow_closeReq (w : Word) : (s.reportOverflow w).closeReq = s.closeReq := rfl
@[simp] theorem reportOverflow_draw (w : Word) : (s.reportOverflow w).draw = s.draw := rfl
@[simp] theorem reportOverflow_script (w : Word) : (s.reportOverflow w).script = s.script := rfl
@[simp] theorem reportOverflow_drawCount (w : Word) : (s.reportOverflow w).drawCount = s.drawCount := rfl
@[simp] theorem reportOverflow_frames (w : Word) : (s.reportOverflow w).frames = s.frames := rfl
@[simp] theorem reportOverflow_params (w : Word) : (s.reportOverflow w).params = s.params := rfl
@[simp] theorem reportOverflow_getV (w : Word) (q : Reg) : (s.reportOverflow w).getV q = s.getV q := rfl
@[simp] theorem reportOverflow_readByte (w : Word) (n : Nat) : (s.reportOverflow w).readByte n = s.readByte n := rfl

/-! reportUnderflow -/
@[simp] theorem reportUnderflow_v (w : Word) : (s.reportUnderflow w).v = s.v := rfl
@[simp] theorem reportUnderflow_i (w : Word) : (s.reportUnderflow w).i = s.i := rfl
@[simp] theorem reportUnderflow_pc (w : Word) : (s.reportUnderflow w).pc = s.pc := rfl
@[simp] theorem reportUnderflow_sp (w : Word) : (s.reportUnderflow w).sp = s.sp := rfl
@[simp] theorem reportUnderflow_stack (w : Word) : (s.reportUnderflow w).stack = s.stack := rfl
@[simp] theorem reportUnderflow_dt (w : Word) : (s.reportUnderflow w).dt = s.dt := rfl
@[simp] theorem reportUnderflow_st (w : Word) : (s.reportUnderflow w).st = s.st := rfl
@[simp] theorem reportUnderflow_rs (w : Word) : (s.reportUnderflow w).rs = s.rs := rfl
@[simp] theorem reportUnderflow_haltCause (w : Word) : (s.reportUnderflow w).haltCause = s.haltCause := rfl
@[simp] theorem reportUnderflow_faultPc (w : Word) : (s.reportUnderflow w).faultPc = s.pc := rfl
@[simp] theorem reportUnderflow_faultWord (w : Word) : (s.reportUnderflow w).faultWord = w := rfl
@[simp] theorem reportUnderflow_diagOvf (w : Word) : (s.reportUnderflow w).diagOvf = s.diagOvf := rfl
@[simp] theorem reportUnderflow_diagUnf (w : Word) : (s.reportUnderflow w).diagUnf = true := rfl
@[simp] theorem reportUnderflow_disp (w : Word) : (s.reportUnderflow w).disp = s.disp := rfl
@[simp] theorem reportUnderflow_mem (w : Word) : (s.reportUnderflow w).mem = s.mem := rfl
@[simp] theorem reportUnderflow_keys (w : Word) : (s.reportUnderflow w).keys = s.keys := rfl
@[simp] theorem reportUnderflow_closeReq (w : Word) : (s.reportUnderflow w).closeReq = s.closeReq := rfl
@[simp] theorem reportUnderflow_draw (w : Word) : (s.reportUnderflow w).draw = s.draw := rfl
@[simp] theorem reportUnderflow_script (w : Word) : (s.reportUnderflow w).script = s.script := rfl
@[simp] theorem reportUnderflow_drawCount (w : Word) : (s.reportUnderflow w).drawCount = s.drawCount := rfl
@[simp] theorem reportUnderflow_frames (w : Word) : (s.reportUnderflow w).frames = s.frames := rfl
@[simp] theorem reportUnderflow_params (w : Word) : (s.reportUnderflow w).params = s.params := rfl
@[simp] theorem reportUnderflow_getV (w : Word) (q : Reg) : (s.reportUnderflow w).getV q = s.getV q := rfl
@[simp] theorem reportUnderflow_readByte (w : Word) (n : Nat) : (s.reportUnderflow w).readByte n = s.readByte n := rfl

/-! tickTimers -/
@[simp] theorem tickTimers_v : (s.tickTimers).v = s.v := rfl
@[simp] theorem tickTimers_i : (s.tickTimers).i = s.i := rfl
@[simp] theorem tickTimers_pc : (s.tickTimers).pc = s.pc := rfl
@[simp] theorem tickTimers_sp : (s.tickTimers).sp = s.sp := rfl
@[simp] theorem tickTimers_stack : (s.tickTimers).stack = s.stack := rfl
@[simp] theorem tickTimers_dt : (s.tickTimers).dt = timerAfter s.dt := rfl
@[simp] theorem tickTimers_st : (s.tickTimers).st = if s.params.stDecrements then timerAfter s.st else s.st := rfl
@[simp] theorem tickTimers_rs : (s.tickTimers).rs = s.rs := rfl
@[simp] theorem tickTimers_haltCause : (s.tickTimers).haltCause = s.haltCause := rfl
@[simp] theorem tickTimers_faultPc : (s.tickTimers).faultPc = s.faultPc := rfl
@[simp] theorem tickTimers_faultWord : (s.tickTimers).faultWord = s.faultWord := rfl
@[simp] theorem tickTimers_diagOvf : (s.tickTimers).diagOvf = s.diagOvf := rfl
@[simp] theorem tickTimers_diagUnf : (s.tickTimers).diagUnf = s.diagUnf := rfl
@[simp] theorem tickTimers_disp : (s.tickTimers).disp = s.disp := rfl
@[simp] theorem tickTimers_mem : (s.tickTimers).mem = s.mem := rfl
@[simp] theorem tickTimers_keys : (s.tickTimers).keys = s.keys := rfl
@[simp] theorem tickTimers_closeReq : (s.tickTimers).closeReq = s.closeReq := rfl
@[simp] theorem tickTimers_draw : (s.tickTimers).draw = s.draw := rfl
@[simp] theorem tickTimers_script : (s.tickTimers).script = s.script := rfl
@[simp] theorem tickTimers_drawCount : (s.tickTimers).drawCount = s.drawCount := rfl
@[simp] theorem tickTimers_frames : (s.tickTimers).frames = s.frames := rfl
@[simp] theorem tickTimers_params : (s.tickTimers).params = s.params := rfl
@[simp] theorem tickTimers_getV (q : Reg) : (s.tickTimers).getV q = s.getV q := rfl
@[simp] theorem tickTimers_readByte (n : Nat) : (s.tickTimers).readByte n = s.readByte n := rfl

/-! present -/
@[simp] theorem present_v : (s.present).v = s.v := rfl
@[simp] theorem present_i : (s.present).i = s.i := rfl
@[simp] theorem present_pc : (s.present).pc = s.pc := rfl
@[simp] theorem present_sp : (s.present).sp = s.sp := rfl
@[simp] theorem present_stack : (s.present).stack = s.stack := rfl
@[simp] theorem present_dt : (s.present).dt = s.dt := rfl
@[simp] theorem present_st : (s.present).st = s.st := rfl
@[simp] theorem present_rs : (s.present).rs = s.rs := rfl
@[simp] theorem present_haltCause : (s.present).haltCause = s.haltCause := rfl
@[simp] theorem present_faultPc : (s.present).faultPc = s.faultPc := rfl
@[simp] theorem present_faultWord : (s.present).faultWord = s.faultWord := rfl
@[simp] theorem present_diagOvf : (s.present).diagOvf = s.diagOvf := rfl
@[simp] theorem present_diagUnf : (s.present).diagUnf = s.diagUnf := rfl
@[simp] theorem present_disp : (s.present).disp = s.disp := rfl
@[simp] theorem present_mem : (s.present).mem = s.mem := rfl
@[simp] theorem present_keys : (s.present).keys = s.keys := rfl
@[simp] theorem present_closeReq : (s.present).closeReq = s.closeReq := rfl
@[simp] theorem present_draw : (s.present).draw = s.draw := rfl
@[simp] theorem present_script : (s.present).script = s.script := rfl
@[simp] theorem present_drawCount : (s.present).drawCount = s.drawCount := rfl
@[simp] theorem present_frames : (s.present).frames = s.frames + 1 := rfl
@[simp] theorem present_params : (s.present).params = s.params := rfl
@[simp] theorem present_getV (q : Reg) : (s.present).getV q = s.getV q := rfl
@[simp] theorem present_readByte (n : Nat) : (s.present).readByte n = s.readByte n := rfl

@[simp] theorem advance2_eq : s.advance2 = s.setPc (s.pc + 2) := rfl
@[simp] theorem advance4_eq : s.advance4 = s.setPc (s.pc + 4) := rfl

theorem setV_getV (r : Reg) (x : Byte) (q : Reg) :
    (s.setV r x).getV q = if r = q then x else s.getV q := by
  simp [getV, Vector.getElem_set, Fin.ext_iff]

@[simp] theorem setV_getV_same (r : Reg) (x : Byte) : (s.setV r x).getV r = x := by
  simp [setV_getV]

theorem setV_getV_ne (r : Reg) (x : Byte) (q : Reg) (h : q ≠ r) : (s.setV r x).getV q = s.getV q := by
  simp [setV_getV, Ne.symm h]

end Sys2Proof.Machine.State
end

