-- ==== Sys2Proof/Laws/Ops.lean ====
section
/-! SUPPORT. What each shared operation can do, said once. -/

namespace Sys2Proof.Machine

/-! ### Registers -/

theorem State.firstRegs_length (s : State) (n : Nat) (h : n ≤ 16) : (s.firstRegs n).length = n := by
  simp [State.firstRegs, h]

theorem State.firstRegs_getElem (s : State) (n k : Nat) (hk : k < n) (h : n ≤ 16) :
    (s.firstRegs n)[k]'(by rw [State.firstRegs_length s n h]; exact hk) = s.getV ⟨k, by omega⟩ := by
  simp [State.firstRegs, State.getV]

theorem State.loadedRegs_getElem (s : State) (a n k : Nat) (hk : k < 16) :
    (s.loadedRegs a n)[k] = if k < n then s.readByte (a + k) else s.v[k] := by
  induction n with
  | zero => simp [State.loadedRegs]
  | succ n ih =>
    simp only [State.loadedRegs, Vector.getElem_setIfInBounds, ih]
    by_cases h : n = k
    · subst h; simp
    · rw [if_neg h]
      by_cases h2 : k < n
      · rw [if_pos h2, if_pos (by omega)]
      · rw [if_neg h2, if_neg (by omega)]

/-- A skip is a write of PC. -/
theorem State.skipIf_eq (s : State) (c : Bool) :
    s.skipIf c = s.setPc (if c then s.pc + 4 else s.pc + 2) := by
  cases c <;> rfl

/-! ### Flags and results (spec/10_state.md R28) -/

theorem State.writeResult_eq (s : State) (x : Reg) (flag result : Byte) :
    s.writeResult x flag result = s.setRegs (s.writeResult x flag result).v := by
  unfold State.writeResult; split <;> rfl

theorem State.writeShift_eq (s : State) (x : Reg) (flag : Byte) (f : Byte → Byte) :
    s.writeShift x flag f = s.setRegs (s.writeShift x flag f).v := by
  unfold State.writeShift; split <;> rfl

/-- Every register after a flag-setting operation that computes its result first. -/
theorem State.writeResult_getV (s : State) (x : Reg) (flag result : Byte) (q : Reg) :
    (s.writeResult x flag result).getV q =
      if q = regF ∧ (x ≠ regF ∨ s.params.xfDestRule = .flagWins) then flag
      else if q = x then result else s.getV q := by
  unfold State.writeResult
  cases h : s.params.xfDestRule <;> simp only [State.setV_getV] <;>
    by_cases h1 : x = q <;> by_cases h2 : regF = q <;> by_cases h3 : x = regF <;>
    simp_all [eq_comm (a := q)]

/-- Every register after a shift. -/
theorem State.writeShift_getV (s : State) (x : Reg) (flag : Byte) (f : Byte → Byte) (q : Reg) :
    (s.writeShift x flag f).getV q =
      if q = regF ∧ (x ≠ regF ∨ s.params.xfDestRule = .flagWins) then flag
      else if q = x then
        f (if x = regF ∧ s.params.xfDestRule = .sequential then flag else s.getV x)
      else s.getV q := by
  unfold State.writeShift
  cases h : s.params.xfDestRule <;> simp only [State.setV_getV] <;>
    by_cases h1 : x = q <;> by_cases h2 : regF = q <;> by_cases h3 : x = regF <;>
    simp_all [eq_comm (a := q)]

theorem flagByte_toNat (b : Bool) : (flagByte b).toNat = if b then 1 else 0 := by cases b <;> rfl

/-! ### Range check, halts and reports -/

theorem State.withRange_inside (s : State) (hi : Nat) (w : Word) (t : State) (h : hi ≤ 0xFFF) :
    s.withRange hi w t = t := by simp [State.withRange, inRange, h]

theorem State.withRange_outside (s : State) (hi : Nat) (w : Word) (t : State) (h : 0xFFF < hi) :
    s.withRange hi w t = s.raiseHalt .outOfRangeAddress w := by
  have : ¬ hi ≤ 0xFFF := by omega
  simp [State.withRange, inRange, this]

theorem State.afterReport_halt (s : State) (c : HaltCause) (w : Word) (h : s.params.stackFaultPolicy = .halt) :
    s.afterReport c w = s.raiseHalt c w := by simp [State.afterReport, h]

theorem State.afterReport_continues (s : State) (c : HaltCause) (w : Word)
    (h : s.params.stackFaultPolicy = .continues) : s.afterReport c w = s.setPc (s.pc + 2) := by
  simp [State.afterReport, h]

/-! ### Display -/

theorem Display.togglePixel_pixel (d : Display) (px qx : Fin 64) (py qy : Fin 32) :
    Display.pixel (Display.togglePixel d px py).1 qx qy =
      if qx = px ∧ qy = py then !Display.pixel d qx qy else Display.pixel d qx qy := by
  simp only [Display.togglePixel, Display.pixel, Vector.getElem_set, Fin.ext_iff]
  by_cases h1 : px.val = qx.val
  · by_cases h2 : py.val = qy.val
    · simp [h1, h2]
    · simp [h1, h2, Ne.symm h2]
  · simp [h1, Ne.symm h1]

theorem clearedDisplay_pixel (px : Fin 64) (py : Fin 32) : Display.pixel clearedDisplay px py = false := by
  simp [clearedDisplay, Display.pixel]

/-- Toggling distinct pixels flips exactly those. -/
theorem Display.toggleAll_pixel (ps : List (Fin 64 × Fin 32)) (hps : ps.Nodup) (d : Display) (c : Bool)
    (qx : Fin 64) (qy : Fin 32) :
    Display.pixel (Display.toggleAll d c ps).1 qx qy =
      if (qx, qy) ∈ ps then !Display.pixel d qx qy else Display.pixel d qx qy := by
  induction ps generalizing d c with
  | nil => simp [Display.toggleAll]
  | cons p ps ih =>
    obtain ⟨hp, hps⟩ := List.nodup_cons.mp hps
    rw [Display.toggleAll, ih hps, Display.togglePixel_pixel]
    by_cases h : (qx, qy) = p
    · subst h; simp [hp]
    · have : ¬ (qx = p.1 ∧ qy = p.2) := fun ⟨a, b⟩ => h (by rw [a, b])
      simp [this, List.mem_cons, h]

/-- Toggling distinct pixels collides exactly when one of them was set. -/
theorem Display.toggleAll_collide (ps : List (Fin 64 × Fin 32)) (hps : ps.Nodup) (d : Display) (c : Bool) :
    (Display.toggleAll d c ps).2 = (c || ps.any (fun p => Display.pixel d p.1 p.2)) := by
  induction ps generalizing d c with
  | nil => simp [Display.toggleAll]
  | cons p ps ih =>
    obtain ⟨hp, hps⟩ := List.nodup_cons.mp hps
    have hsame : ps.any (fun q => Display.pixel (Display.togglePixel d p.1 p.2).1 q.1 q.2) =
        ps.any (fun q => Display.pixel d q.1 q.2) := by
      rw [Bool.eq_iff_iff, List.any_eq_true, List.any_eq_true]
      refine exists_congr fun q => and_congr_right fun hq => ?_
      have : ¬ (q.1 = p.1 ∧ q.2 = p.2) := fun ⟨a, b⟩ => hp (by rwa [← Prod.ext a b])
      rw [Display.togglePixel_pixel, if_neg this]
    rw [Display.toggleAll, ih hps, hsame]
    simp [Display.togglePixel, Bool.or_assoc]

theorem mem_rowPixels (px0 py0 : Byte) (r : Nat) (b : Byte) (p : Fin 64 × Fin 32) :
    p ∈ rowPixels px0 py0 r b ↔ ∃ c < 8, b.getLsbD (7 - c) = true ∧ p = (column px0 c, row py0 r) := by
  simp only [rowPixels, List.mem_map, List.mem_filter, List.mem_range]
  exact exists_congr fun c => by rw [and_assoc, eq_comm (b := p)]

/-- A pixel is toggled exactly when a 1 bit of the sprite lands on it (spec/45_display.md R129). -/
theorem mem_spritePixels (s : State) (x y : Reg) (n : Nat) (p : Fin 64 × Fin 32) :
    p ∈ spritePixels s x y n ↔ ∃ r < n, ∃ c < 8, (s.readByte (addrAt s r)).getLsbD (7 - c) = true ∧
      p = (column (s.getV x) c, row (s.getV y) r) := by
  simp [spritePixels, mem_rowPixels]

/-- No pixel is toggled twice: the columns are distinct mod 64 and at most 32 rows distinct mod 32 (R129). -/
theorem spritePixels_nodup (s : State) (x y : Reg) (n : Nat) (hn : n ≤ 32) : (spritePixels s x y n).Nodup := by
  rw [spritePixels, List.nodup_flatMap]
  constructor
  · intro r _
    refine List.Nodup.map_on ?_ ((List.nodup_range (n := 8)).filter _)
    intro a ha b hb h
    simp only [List.mem_filter, List.mem_range] at ha hb
    have := congrArg (fun p : Fin 64 × Fin 32 => p.1.val) h
    simp only [column] at this
    omega
  · refine List.Pairwise.imp_of_mem ?_ (List.pairwise_lt_range (n := n))
    intro a b ha hb hab p hpa hpb
    simp only [List.mem_range] at ha hb
    obtain ⟨c, _, _, rfl⟩ := (mem_rowPixels _ _ _ _ _).mp hpa
    obtain ⟨c', _, _, h⟩ := (mem_rowPixels _ _ _ _ _).mp hpb
    have := congrArg (fun p : Fin 64 × Fin 32 => p.2.val) h
    simp only [row] at this
    omega

/-! ### Keys -/

theorem State.firstKey_some (s : State) (k : Nat) :
    s.firstKey = some k ↔ k < 16 ∧ s.keyDown k = true ∧ ∀ j < k, s.keyDown j = false := by
  rw [State.firstKey, List.find?_range_eq_some]
  simp only [List.mem_range, Bool.not_eq_eq_eq_not, Bool.not_true]
  exact ⟨fun ⟨a, b, c⟩ => ⟨b, a, c⟩, fun ⟨b, a, c⟩ => ⟨a, b, c⟩⟩

theorem State.firstKey_none (s : State) : s.firstKey = none ↔ ∀ k < 16, s.keyDown k = false := by
  simp [State.firstKey]

/-! ### Poll, fetch and the end of a tick -/

theorem State.poll_cases (s : State) :
    (s.script = [] ∧ s.poll = { s with draw := Config.freeDraw s.drawCount, drawCount := s.drawCount + 1 }) ∨
    (∃ t rest, s.script = t :: rest ∧
      s.poll = { s with keys := t.keys, closeReq := t.closeReq, draw := t.draw, script := rest }) := by
  cases h : s.script with
  | nil => left; simp [State.poll, h]
  | cons t rest => right; exact ⟨t, rest, rfl, by simp [State.poll, h]⟩

/-- A poll touches nothing but the inputs. -/
theorem State.poll_frame (s : State) :
    s.poll.v = s.v ∧ s.poll.i = s.i ∧ s.poll.pc = s.pc ∧ s.poll.sp = s.sp ∧ s.poll.stack = s.stack ∧
    s.poll.dt = s.dt ∧ s.poll.st = s.st ∧ s.poll.rs = s.rs ∧ s.poll.haltCause = s.haltCause ∧
    s.poll.faultPc = s.faultPc ∧ s.poll.faultWord = s.faultWord ∧ s.poll.diagOvf = s.diagOvf ∧
    s.poll.diagUnf = s.diagUnf ∧ s.poll.disp = s.disp ∧ s.poll.mem = s.mem ∧ s.poll.frames = s.frames ∧
    s.poll.params = s.params := by
  obtain ⟨_, h⟩ | ⟨_, _, _, h⟩ := s.poll_cases <;> rw [h] <;> simp

theorem wordOfBytes_toNat (hi lo : Byte) : (wordOfBytes hi lo).toNat = hi.toNat * 256 + lo.toNat := by
  have := lo.isLt
  have h : (hi ++ lo : BitVec (8 + 8)).toNat = hi.toNat * 256 + lo.toNat := by
    rw [BitVec.toNat_append, Nat.shiftLeft_eq, Nat.mul_comm, ← Nat.two_pow_add_eq_or_of_lt (by omega)]
  exact h

theorem wordOfBytes_highByte_lowByte (w : Word) : wordOfBytes (highByte w) (lowByte w) = w := by
  apply BitVec.eq_of_toNat_eq
  have := w.isLt
  rw [wordOfBytes_toNat, highByte, lowByte, BitVec.extractLsb'_toNat, BitVec.extractLsb'_toNat,
    Nat.shiftRight_eq_div_pow, Nat.shiftRight_eq_div_pow]
  omega

theorem State.fetch_inside (s : State) (h : s.pc.toNat + 1 ≤ 0xFFF) :
    s.fetch = some (wordOfBytes (s.readByte s.pc.toNat) (s.readByte (s.pc.toNat + 1))) := by
  simp [State.fetch, inRange, h]

theorem State.fetch_outside (s : State) (h : 0xFFF < s.pc.toNat + 1) : s.fetch = none := by
  have : ¬ s.pc.toNat + 1 ≤ 0xFFF := by omega
  simp only [State.fetch, inRange, this, decide_false, Bool.false_eq_true, if_false]

theorem timerAfter_toNat (x : Byte) : (timerAfter x).toNat = x.toNat - 1 := by
  unfold timerAfter
  split
  · bv_omega
  · omega

theorem State.endTick_running (s : State) (h : s.rs = .running) : s.endTick = s.tickTimers.present := by
  simp [State.endTick, h]

theorem State.endTick_waiting (s : State) (h : s.rs = .waitingForKey) : s.endTick = s.present := by
  simp [State.endTick, h]

theorem State.endTick_halted (s : State) (h : s.rs = .halted) : s.endTick = s := by
  simp [State.endTick, h]

end Sys2Proof.Machine
end

