-- ==== Sys2Proof/Laws/Exec.lean ====
section
/-! SUPPORT. The frames of the updates the meanings are made of, and the meanings with more than one case,
case by case. -/

namespace Sys2Proof.Machine

theorem advanced_two (s t : State) (h : t.pc = s.pc + 2) : Advanced s t 2 := by
  unfold Advanced; rw [h]; bv_omega

theorem advanced_four (s t : State) (h : t.pc = s.pc + 4) : Advanced s t 4 := by
  unfold Advanced; rw [h]; bv_omega

/-! ### Frames -/

theorem onlyPc_setPc (s : State) (a : Word) : OnlyPc s (s.setPc a) :=
  ⟨fun _ _ => rfl, rfl, ⟨rfl, fun _ => rfl⟩, ⟨rfl, rfl⟩, ⟨rfl, rfl, rfl, rfl, rfl, rfl⟩, fun _ _ => rfl,
    fun _ => rfl, ⟨rfl, rfl, rfl, rfl, rfl, rfl, rfl⟩⟩

theorem onlyRegs_setRegs (s : State) (v : Vector Byte 16) (written : List Reg) (a : Word)
    (h : ∀ q, q ∉ written → (s.setRegs v).getV q = s.getV q) :
    OnlyRegs s ((s.setRegs v).setPc a) written :=
  ⟨h, rfl, ⟨rfl, fun _ => rfl⟩, ⟨rfl, rfl⟩, ⟨rfl, rfl, rfl, rfl, rfl, rfl⟩, fun _ _ => rfl,
    fun _ => rfl, ⟨rfl, rfl, rfl, rfl, rfl, rfl, rfl⟩⟩

theorem onlyRegs_setV (s : State) (r : Reg) (x : Byte) (a : Word) :
    OnlyRegs s ((s.setV r x).setPc a) [r] :=
  onlyRegs_setRegs s _ [r] a fun q hq => State.setV_getV_ne s r x q (by simpa using hq)

theorem onlyRegs_writeResult (s : State) (x : Reg) (flag result : Byte) (a : Word) :
    OnlyRegs s ((s.writeResult x flag result).setPc a) [x, regF] := by
  rw [State.writeResult_eq]
  refine onlyRegs_setRegs s _ _ a fun q hq => ?_
  rw [← State.writeResult_eq, State.writeResult_getV]
  simp only [List.mem_cons, List.not_mem_nil, or_false, not_or] at hq
  simp [hq.1, hq.2]

theorem onlyRegs_writeShift (s : State) (x : Reg) (flag : Byte) (f : Byte → Byte) (a : Word) :
    OnlyRegs s ((s.writeShift x flag f).setPc a) [x, regF] := by
  rw [State.writeShift_eq]
  refine onlyRegs_setRegs s _ _ a fun q hq => ?_
  rw [← State.writeShift_eq, State.writeShift_getV]
  simp only [List.mem_cons, List.not_mem_nil, or_false, not_or] at hq
  simp [hq.1, hq.2]

@[simp] theorem State.writeResult_pc (s : State) (x : Reg) (flag result : Byte) :
    (s.writeResult x flag result).pc = s.pc := by rw [State.writeResult_eq]; rfl

@[simp] theorem State.writeShift_pc (s : State) (x : Reg) (flag : Byte) (f : Byte → Byte) :
    (s.writeShift x flag f).pc = s.pc := by rw [State.writeShift_eq]; rfl

theorem onlyIndex_setI (s : State) (i a : Word) : OnlyIndex s ((s.setI i).setPc a) :=
  ⟨fun _ _ => rfl, ⟨rfl, fun _ => rfl⟩, ⟨rfl, rfl⟩, ⟨rfl, rfl, rfl, rfl, rfl, rfl⟩, fun _ _ => rfl,
    fun _ => rfl, ⟨rfl, rfl, rfl, rfl, rfl, rfl, rfl⟩⟩

theorem onlyMemory_setMem (s : State) (m : Memory) (a : Word) : OnlyMemory s ((s.setMem m).setPc a) :=
  ⟨fun _ _ => rfl, rfl, ⟨rfl, fun _ => rfl⟩, ⟨rfl, rfl⟩, ⟨rfl, rfl, rfl, rfl, rfl, rfl⟩, fun _ _ => rfl,
    ⟨rfl, rfl, rfl, rfl, rfl, rfl, rfl⟩⟩

theorem keepsArchitecture_raiseHalt (s : State) (c : HaltCause) (w : Word) :
    KeepsArchitecture s (s.raiseHalt c w) :=
  ⟨fun _ _ => rfl, rfl, rfl, ⟨rfl, fun _ => rfl⟩, ⟨rfl, rfl⟩, fun _ _ => rfl, fun _ => rfl⟩

theorem haltedWith_raiseHalt (s : State) (c : HaltCause) (w : Word) : HaltedWith s (s.raiseHalt c w) c w :=
  ⟨rfl, rfl, rfl, rfl, rfl, rfl, keepsArchitecture_raiseHalt s c w, ⟨rfl, rfl, rfl, rfl, rfl, rfl, rfl⟩⟩

/-! ### Flags as numbers -/

theorem shiftedOutLow_toNat (a : Byte) : (shiftedOutLow a).toNat = a.toNat % 2 := by
  revert a; decide

theorem shiftedOutHigh_toNat (a : Byte) : (shiftedOutHigh a).toNat = a.toNat / 128 := by
  revert a; decide

/-! ### `Fx65`'s register file -/

theorem State.loadedRegs_getV (s : State) (a n : Nat) (k : Reg) :
    (s.setRegs (s.loadedRegs a n)).getV k = if k.val < n then s.readByte (a + k.val) else s.getV k :=
  State.loadedRegs_getElem s a n k.val k.isLt

/-! ### Control transfer, case by case -/

theorem exec_ret_underflow (s : State) (h : s.sp = 0) :
    exec .ret s = .next (s.underflowFault (encode .ret)) := if_pos h

theorem exec_ret_pop (s : State) (h0 : s.sp ≠ 0) (h : s.dropTop.sp.toNat < 16) :
    exec .ret s = .next (s.dropTop.setPc s.stack[s.dropTop.sp.toNat]) :=
  (if_neg h0).trans (dif_pos h)

theorem exec_call_overflow (s : State) (nnn : BitVec 12) (h : s.sp = 15) :
    exec (.call nnn) s = .next (s.overflowFault (encode (.call nnn))) := if_pos h

theorem exec_call_push (s : State) (nnn : BitVec 12) (h0 : s.sp ≠ 15) (h : s.sp.toNat < 16) :
    exec (.call nnn) s = .next ((s.push (s.pc + 2) h).setPc (address nnn)) :=
  (if_neg h0).trans (dif_pos h)

/-! ### `Dxyn` -/

theorem mem_spritePixels_iff_covers (s : State) (x y : Reg) (n : Nat) (px : Fin 64) (py : Fin 32) :
    (px, py) ∈ spritePixels s x y n ↔ SpriteCovers s x y n px py := by
  rw [mem_spritePixels]
  constructor
  · rintro ⟨r, hr, c, hc, hb, h⟩
    obtain ⟨rfl, rfl⟩ := Prod.mk.inj h
    exact ⟨r, c, hr, hc, hb, rfl, rfl⟩
  · rintro ⟨r, c, hr, hc, hb, h1, h2⟩
    exact ⟨r, hr, c, hc, hb, Prod.ext (Fin.ext h1) (Fin.ext h2)⟩

/-- The sprite's pixels depend on memory, I, `V[x]` and `V[y]` only. -/
theorem spritePixels_congr (s u : State) (x y : Reg) (n : Nat) (hm : u.mem = s.mem) (hi : u.i = s.i)
    (hx : u.getV x = s.getV x) (hy : u.getV y = s.getV y) : spritePixels u x y n = spritePixels s x y n := by
  simp [spritePixels, addrAt, State.readByte, hm, hi, hx, hy]

theorem exec_drw_inside (s : State) (x y : Reg) (n : Fin 16) (h : n.val = 0 ∨ s.i.toNat + n.val - 1 ≤ 0xFFF) :
    exec (.drw x y n) s = .next (s.blit x y n.val).advance2 := by
  show execDrw x y n s = _
  unfold execDrw
  split
  · rw [‹n.val = 0›]
  · rw [State.withRange_inside]
    simp only [addrAt]
    omega

theorem State.blit_pixel (s : State) (x y : Reg) (n : Nat) (hn : n ≤ 32) (px : Fin 64) (py : Fin 32) :
    (s.blit x y n).disp.pixel px py =
      if (px, py) ∈ spritePixels s x y n then !s.disp.pixel px py else s.disp.pixel px py := by
  simp only [State.blit, State.setV_disp, State.setDisp_disp]
  exact Display.toggleAll_pixel _ (spritePixels_nodup s x y n hn) _ _ _ _

theorem State.blit_getV_flag (s : State) (x y : Reg) (n : Nat) (hn : n ≤ 32) :
    (s.blit x y n).getV regF = flagByte ((spritePixels s x y n).any fun p => s.disp.pixel p.1 p.2) := by
  simp [State.blit, Display.toggleAll_collide _ (spritePixels_nodup s x y n hn)]

theorem onlyDisplay_blit (s : State) (x y : Reg) (n : Nat) (a : Word) :
    OnlyDisplay s ((s.blit x y n).setPc a) [regF] := by
  refine ⟨fun q hq => ?_, rfl, ⟨rfl, fun _ => rfl⟩, ⟨rfl, rfl⟩, ⟨rfl, rfl, rfl, rfl, rfl, rfl⟩, fun _ => rfl,
    ⟨rfl, rfl, rfl, rfl, rfl, rfl, rfl⟩⟩
  simp only [List.mem_cons, List.not_mem_nil, or_false] at hq
  simp [State.blit, State.setV_getV_ne _ _ _ _ hq]

/-! ### `Fx0A` -/

theorem exec_ldVxK_pressed (s : State) (x : Reg) (k : Nat) (hk : k < 16) (h : s.keys.getLsbD k = true)
    (hj : ∀ j < k, s.keys.getLsbD j = false) :
    exec (.ldVxK x) s = .next ((s.setV x (BitVec.ofNat 8 k)).setRs .running).advance2 := by
  have : s.firstKey = some k := (State.firstKey_some s k).mpr ⟨hk, h, hj⟩
  show execLdVxK x s = _
  simp [execLdVxK, this]

theorem exec_ldVxK_noKey (s : State) (x : Reg) (h : ∀ k < 16, s.keys.getLsbD k = false) :
    exec (.ldVxK x) s = .next (s.setRs .waitingForKey) := by
  have : s.firstKey = none := (State.firstKey_none s).mpr h
  show execLdVxK x s = _
  simp [execLdVxK, this]

/-! ### Everything an instruction can do -/

/-- The shapes of the next states of `exec`. -/
inductive Effect (i : Instr) (s : State) : State → Prop
  | registers (v : Vector Byte 16) (a : Word) (ha : a = s.pc + 2 ∨ a = s.pc + 4 ∨ a.toNat ≤ 0x10FE) :
      Effect i s ((s.setRegs v).setPc a)
  | index (a : Word) (ha : a.toNat ≤ 4095) : Effect i s ((s.setI a).setPc (s.pc + 2))
  | memory (a : Nat) (xs : List Byte) (ha : a + xs.length ≤ 4096) :
      Effect i s ((s.setMem (s.mem.writeBytes a xs)).setPc (s.pc + 2))
  | display (d : Display) (v : Vector Byte 16) : Effect i s (((s.setDisp d).setRegs v).setPc (s.pc + 2))
  | delay (x : Byte) : Effect i s ((s.setDt x).setPc (s.pc + 2))
  | sound (x : Byte) : Effect i s ((s.setSt x).setPc (s.pc + 2))
  | keyTaken (v : Vector Byte 16) : Effect i s (((s.setRegs v).setRs .running).setPc (s.pc + 2))
  | keyWait (x : Reg) (hi : i = .ldVxK x) : Effect i s (s.setRs .waitingForKey)
  | push (nnn : BitVec 12) (h0 : s.sp ≠ 15) (h : s.sp.toNat < 16) :
      Effect i s ((s.push (s.pc + 2) h).setPc (address nnn))
  | pop (h0 : s.sp ≠ 0) (h : s.dropTop.sp.toNat < 16) :
      Effect i s (s.dropTop.setPc s.stack[s.dropTop.sp.toNat])
  | outOfRange (w : Word) : Effect i s (s.raiseHalt .outOfRangeAddress w)
  | overflow (w : Word) : Effect i s (s.overflowFault w)
  | underflow (w : Word) : Effect i s (s.underflowFault w)

theorem Effect.pcOnly {i : Instr} {s : State} (a : Word)
    (ha : a = s.pc + 2 ∨ a = s.pc + 4 ∨ a.toNat ≤ 0x10FE) : Effect i s (s.setPc a) :=
  .registers s.v a ha

theorem Effect.skip {i : Instr} {s : State} (c : Bool) : Effect i s (s.skipIf c) := by
  rw [State.skipIf_eq]
  exact .pcOnly _ (by cases c <;> simp)

theorem Effect.set {i : Instr} {s : State} (r : Reg) (x : Byte) : Effect i s (s.setV r x).advance2 :=
  .registers _ _ (.inl rfl)

theorem Effect.result {i : Instr} {s : State} (x : Reg) (flag result : Byte) :
    Effect i s (s.writeResult x flag result).advance2 := by
  rw [State.writeResult_eq]
  exact .registers _ _ (.inl rfl)

theorem Effect.shift {i : Instr} {s : State} (x : Reg) (flag : Byte) (f : Byte → Byte) :
    Effect i s (s.writeShift x flag f).advance2 := by
  rw [State.writeShift_eq]
  exact .registers _ _ (.inl rfl)

theorem Effect.range {i : Instr} {s t : State} (hi : Nat) (w : Word) (h : hi ≤ 0xFFF → Effect i s t) :
    Effect i s (s.withRange hi w t) := by
  by_cases hh : hi ≤ 0xFFF
  · rw [State.withRange_inside _ _ _ _ hh]; exact h hh
  · rw [State.withRange_outside _ _ _ _ (by omega)]; exact .outOfRange w

theorem exec_effect (i : Instr) (s t : State) (h : exec i s = .next t) : Effect i s t := by
  cases i with
  | cls => obtain rfl := Host.Outcome.next.inj h; exact Effect.display (s := s) clearedDisplay s.v
  | ret =>
    by_cases h0 : s.sp = 0
    · rw [exec_ret_underflow s h0] at h; obtain rfl := Host.Outcome.next.inj h; exact .underflow _
    · by_cases h1 : s.dropTop.sp.toNat < 16
      · rw [exec_ret_pop s h0 h1] at h; obtain rfl := Host.Outcome.next.inj h; exact .pop h0 h1
      · exact absurd ((if_neg h0).trans (dif_neg h1) |>.symm.trans h) (by simp)
  | jp nnn =>
    obtain rfl := Host.Outcome.next.inj h
    exact .pcOnly _ (.inr (.inr (by simp only [address]; bv_omega)))
  | call nnn =>
    by_cases h0 : s.sp = 15
    · rw [exec_call_overflow s nnn h0] at h; obtain rfl := Host.Outcome.next.inj h; exact .overflow _
    · by_cases h1 : s.sp.toNat < 16
      · rw [exec_call_push s nnn h0 h1] at h; obtain rfl := Host.Outcome.next.inj h; exact .push nnn h0 h1
      · exact absurd ((if_neg h0).trans (dif_neg h1) |>.symm.trans h) (by simp)
  | jpV0 nnn =>
    obtain rfl := Host.Outcome.next.inj h
    exact .pcOnly _ (.inr (.inr (by simp only [offsetAddress]; bv_omega)))
  | seImm x kk => obtain rfl := Host.Outcome.next.inj h; exact .skip _
  | sneImm x kk => obtain rfl := Host.Outcome.next.inj h; exact .skip _
  | seReg x y => obtain rfl := Host.Outcome.next.inj h; exact .skip _
  | sneReg x y => obtain rfl := Host.Outcome.next.inj h; exact .skip _
  | skp x => obtain rfl := Host.Outcome.next.inj h; exact .skip _
  | sknp x => obtain rfl := Host.Outcome.next.inj h; exact .skip _
  | ldImm x kk => obtain rfl := Host.Outcome.next.inj h; exact .set _ _
  | addImm x kk => obtain rfl := Host.Outcome.next.inj h; exact .set _ _
  | ldReg x y => obtain rfl := Host.Outcome.next.inj h; exact .set _ _
  | orReg x y => obtain rfl := Host.Outcome.next.inj h; exact .set _ _
  | andReg x y => obtain rfl := Host.Outcome.next.inj h; exact .set _ _
  | xorReg x y => obtain rfl := Host.Outcome.next.inj h; exact .set _ _
  | rnd x kk => obtain rfl := Host.Outcome.next.inj h; exact .set _ _
  | ldVxDt x => obtain rfl := Host.Outcome.next.inj h; exact .set _ _
  | addReg x y => obtain rfl := Host.Outcome.next.inj h; exact .result _ _ _
  | subReg x y => obtain rfl := Host.Outcome.next.inj h; exact .result _ _ _
  | subn x y => obtain rfl := Host.Outcome.next.inj h; exact .result _ _ _
  | shr x y => obtain rfl := Host.Outcome.next.inj h; exact .shift _ _ _
  | shl x y => obtain rfl := Host.Outcome.next.inj h; exact .shift _ _ _
  | ldI nnn =>
    obtain rfl := Host.Outcome.next.inj h
    exact .index _ (by simp only [address]; bv_omega)
  | addI x =>
    obtain rfl := Host.Outcome.next.inj h
    exact .index _ (by simp only [indexPlus, BitVec.toNat_ofNat]; omega)
  | ldIFont x =>
    obtain rfl := Host.Outcome.next.inj h
    exact .index _ (by simp only [glyphAddr, BitVec.toNat_ofNat]; exact (Nat.mod_le _ _).trans (by omega))
  | drw x y n =>
    by_cases hn : n.val = 0
    · rw [exec_drw_inside s x y n (.inl hn)] at h; obtain rfl := Host.Outcome.next.inj h; exact .display _ _
    · obtain rfl := Host.Outcome.next.inj ((if_neg hn).symm.trans h)
      exact .range _ _ fun _ => .display _ _
  | ldDtVx x => obtain rfl := Host.Outcome.next.inj h; exact .delay _
  | ldStVx x => obtain rfl := Host.Outcome.next.inj h; exact .sound _
  | ldBcd x =>
    obtain rfl := Host.Outcome.next.inj h
    refine .range _ _ fun hr => .memory _ _ ?_
    simp only [addrAt, bcdDigits, List.length_cons, List.length_nil] at *
    omega
  | stRegs x =>
    obtain rfl := Host.Outcome.next.inj h
    refine .range _ _ fun hr => .memory _ _ ?_
    rw [State.firstRegs_length s _ (by omega)]
    simp only [addrAt] at *
    omega
  | ldRegs x =>
    obtain rfl := Host.Outcome.next.inj h
    exact .range _ _ fun _ => .registers _ _ (.inl rfl)
  | ldVxK x =>
    cases hk : s.firstKey with
    | none =>
      rw [exec_ldVxK_noKey s x ((State.firstKey_none s).mp hk)] at h
      obtain rfl := Host.Outcome.next.inj h
      exact .keyWait x rfl
    | some k =>
      obtain ⟨h1, h2, h3⟩ := (State.firstKey_some s k).mp hk
      rw [exec_ldVxK_pressed s x k h1 h2 h3] at h
      obtain rfl := Host.Outcome.next.inj h
      exact .keyTaken _

/-! ### Which instructions halt -/

/-- What an instruction's own condition `c` says of the state after it: a precise halt with `c`, or RS kept. -/
structure HaltsBy (s t : State) (c : HaltCause) : Prop where
  halted : c ≠ .none → t.rs = .halted ∧ t.haltCause = c ∧ KeepsArchitecture s t ∧ t.frames = s.frames
  keeps : c = .none → t.rs = s.rs ∧ t.haltCause = s.haltCause

theorem HaltsBy.goesOn {s t : State} (hr : t.rs = s.rs) (h : t.haltCause = s.haltCause) : HaltsBy s t .none :=
  ⟨fun hn => absurd rfl hn, fun _ => ⟨hr, h⟩⟩

theorem HaltsBy.raised {s : State} (c : HaltCause) (w : Word) (hc : c ≠ .none) : HaltsBy s (s.raiseHalt c w) c :=
  ⟨fun _ => ⟨rfl, rfl, keepsArchitecture_raiseHalt s c w, rfl⟩, fun h => absurd h hc⟩

theorem HaltsBy.range {s t : State} (hi : Nat) (w : Word) (hr : t.rs = s.rs)
    (h : t.haltCause = s.haltCause) :
    HaltsBy s (s.withRange hi w t) (if 0xFFF < hi then .outOfRangeAddress else .none) := by
  by_cases hh : 0xFFF < hi
  · rw [State.withRange_outside _ _ _ _ hh, if_pos hh]; exact .raised _ _ (by simp)
  · rw [State.withRange_inside _ _ _ _ (by omega), if_neg hh]; exact .goesOn hr h

/-- Every instruction but `Fx0A` halts exactly under its own condition. -/
theorem exec_haltsBy (i : Instr) (s t : State) (hk : ∀ x, i ≠ .ldVxK x) (h : exec i s = .next t) :
    HaltsBy s t (ownCondition i s) := by
  cases i with
  | ret =>
    by_cases h0 : s.sp = 0
    · rw [exec_ret_underflow s h0] at h
      obtain rfl := Host.Outcome.next.inj h
      cases hp : s.params.stackFaultPolicy with
      | halt =>
        rw [ownCondition, if_pos ⟨h0, hp⟩, State.underflowFault,
          State.afterReport_halt _ _ _ (show (s.reportUnderflow _).params.stackFaultPolicy = _ from hp)]
        exact ⟨fun _ => ⟨rfl, rfl, ⟨fun _ _ => rfl, rfl, rfl, ⟨rfl, fun _ => rfl⟩, ⟨rfl, rfl⟩, fun _ _ => rfl,
          fun _ => rfl⟩, rfl⟩, fun hc => by simp at hc⟩
      | continues =>
        rw [ownCondition, if_neg (by simp [hp]), State.underflowFault,
          State.afterReport_continues _ _ _ (show (s.reportUnderflow _).params.stackFaultPolicy = _ from hp)]
        exact .goesOn rfl rfl
    · rw [ownCondition, if_neg (fun hc => h0 hc.1)]
      by_cases h1 : s.dropTop.sp.toNat < 16
      · rw [exec_ret_pop s h0 h1] at h; obtain rfl := Host.Outcome.next.inj h; exact .goesOn rfl rfl
      · exact absurd ((if_neg h0).trans (dif_neg h1) |>.symm.trans h) (by simp)
  | call nnn =>
    by_cases h0 : s.sp = 15
    · rw [exec_call_overflow s nnn h0] at h
      obtain rfl := Host.Outcome.next.inj h
      cases hp : s.params.stackFaultPolicy with
      | halt =>
        rw [ownCondition, if_pos ⟨h0, hp⟩, State.overflowFault,
          State.afterReport_halt _ _ _ (show (s.reportOverflow _).params.stackFaultPolicy = _ from hp)]
        exact ⟨fun _ => ⟨rfl, rfl, ⟨fun _ _ => rfl, rfl, rfl, ⟨rfl, fun _ => rfl⟩, ⟨rfl, rfl⟩, fun _ _ => rfl,
          fun _ => rfl⟩, rfl⟩, fun hc => by simp at hc⟩
      | continues =>
        rw [ownCondition, if_neg (by simp [hp]), State.overflowFault,
          State.afterReport_continues _ _ _ (show (s.reportOverflow _).params.stackFaultPolicy = _ from hp)]
        exact .goesOn rfl rfl
    · rw [ownCondition, if_neg (fun hc => h0 hc.1)]
      by_cases h1 : s.sp.toNat < 16
      · rw [exec_call_push s nnn h0 h1] at h; obtain rfl := Host.Outcome.next.inj h; exact .goesOn rfl rfl
      · exact absurd ((if_neg h0).trans (dif_neg h1) |>.symm.trans h) (by simp)
  | drw x y n =>
    by_cases hn : n.val = 0
    · rw [exec_drw_inside s x y n (.inl hn)] at h
      obtain rfl := Host.Outcome.next.inj h
      rw [ownCondition, if_neg (by omega)]
      exact .goesOn rfl rfl
    · obtain rfl := Host.Outcome.next.inj ((if_neg hn).symm.trans h)
      have hc : (0 < n.val ∧ 0xFFF < s.i.toNat + n.val - 1) = (0xFFF < addrAt s (n.val - 1)) := by
        simp only [addrAt, eq_iff_iff]; omega
      simp only [ownCondition, hc]
      exact .range _ _ rfl rfl
  | ldBcd x => obtain rfl := Host.Outcome.next.inj h; exact .range _ _ rfl rfl
  | stRegs x => obtain rfl := Host.Outcome.next.inj h; exact .range _ _ rfl rfl
  | ldRegs x => obtain rfl := Host.Outcome.next.inj h; exact .range _ _ rfl rfl
  | ldVxK x => exact absurd rfl (hk x)
  | cls => obtain rfl := Host.Outcome.next.inj h; exact .goesOn rfl rfl
  | jp _ => obtain rfl := Host.Outcome.next.inj h; exact .goesOn rfl rfl
  | jpV0 _ => obtain rfl := Host.Outcome.next.inj h; exact .goesOn rfl rfl
  | ldImm _ _ => obtain rfl := Host.Outcome.next.inj h; exact .goesOn rfl rfl
  | addImm _ _ => obtain rfl := Host.Outcome.next.inj h; exact .goesOn rfl rfl
  | ldReg _ _ => obtain rfl := Host.Outcome.next.inj h; exact .goesOn rfl rfl
  | orReg _ _ => obtain rfl := Host.Outcome.next.inj h; exact .goesOn rfl rfl
  | andReg _ _ => obtain rfl := Host.Outcome.next.inj h; exact .goesOn rfl rfl
  | xorReg _ _ => obtain rfl := Host.Outcome.next.inj h; exact .goesOn rfl rfl
  | rnd _ _ => obtain rfl := Host.Outcome.next.inj h; exact .goesOn rfl rfl
  | ldI _ => obtain rfl := Host.Outcome.next.inj h; exact .goesOn rfl rfl
  | addI _ => obtain rfl := Host.Outcome.next.inj h; exact .goesOn rfl rfl
  | ldIFont _ => obtain rfl := Host.Outcome.next.inj h; exact .goesOn rfl rfl
  | ldVxDt _ => obtain rfl := Host.Outcome.next.inj h; exact .goesOn rfl rfl
  | ldDtVx _ => obtain rfl := Host.Outcome.next.inj h; exact .goesOn rfl rfl
  | ldStVx _ => obtain rfl := Host.Outcome.next.inj h; exact .goesOn rfl rfl
  | seImm _ _ => obtain rfl := Host.Outcome.next.inj h; rw [State.skipIf_eq]; exact .goesOn rfl rfl
  | sneImm _ _ => obtain rfl := Host.Outcome.next.inj h; rw [State.skipIf_eq]; exact .goesOn rfl rfl
  | seReg _ _ => obtain rfl := Host.Outcome.next.inj h; rw [State.skipIf_eq]; exact .goesOn rfl rfl
  | sneReg _ _ => obtain rfl := Host.Outcome.next.inj h; rw [State.skipIf_eq]; exact .goesOn rfl rfl
  | skp _ => obtain rfl := Host.Outcome.next.inj h; rw [State.skipIf_eq]; exact .goesOn rfl rfl
  | sknp _ => obtain rfl := Host.Outcome.next.inj h; rw [State.skipIf_eq]; exact .goesOn rfl rfl
  | addReg _ _ => obtain rfl := Host.Outcome.next.inj h; rw [State.writeResult_eq]; exact .goesOn rfl rfl
  | subReg _ _ => obtain rfl := Host.Outcome.next.inj h; rw [State.writeResult_eq]; exact .goesOn rfl rfl
  | subn _ _ => obtain rfl := Host.Outcome.next.inj h; rw [State.writeResult_eq]; exact .goesOn rfl rfl
  | shr _ _ => obtain rfl := Host.Outcome.next.inj h; rw [State.writeShift_eq]; exact .goesOn rfl rfl
  | shl _ _ => obtain rfl := Host.Outcome.next.inj h; rw [State.writeShift_eq]; exact .goesOn rfl rfl

/-! ### A tick, case by case -/

theorem step_halted (s : State) (h : s.rs = .halted) : step s = .next s := by
  simp [step, tick, h]

theorem step_polled (s : State) (h : s.rs ≠ .halted) : step s = afterPoll s.poll := by
  cases hr : s.rs with
  | halted => exact absurd hr h
  | running => simp [step, tick, hr]
  | waitingForKey => simp [step, tick, hr]

theorem afterPoll_close (u : State) (h : u.closeReq = true) : afterPoll u = .next u.haltOnClose := by
  simp [afterPoll, h]

theorem afterPoll_noWord (u : State) (h : u.closeReq = false) (hf : u.fetch = none) :
    afterPoll u = .next (u.raiseHalt .outOfRangeAddress 0) := by
  simp [afterPoll, h, hf]

theorem afterPoll_word (u : State) (w : Word) (h : u.closeReq = false) (hf : u.fetch = some w) :
    afterPoll u = runWord w u := by
  simp [afterPoll, h, hf]

theorem runWord_zero (u : State) : runWord 0 u = .next (u.raiseHalt .sentinel 0) := by simp [runWord]

theorem runWord_unrecognized (u : State) (w : Word) (h0 : w ≠ 0) (h : decode w = .unrecognized) :
    runWord w u = .next (u.raiseHalt .unrecognizedInstruction w) := by
  rw [runWord, if_neg h0, h]

theorem decode_zero : decode 0 = .unrecognized := by decide

theorem runWord_instr (u : State) (w : Word) (i : Instr) (h : decode w = .instr i) :
    runWord w u = runInstr i u := by
  have h0 : w ≠ 0 := by
    rintro rfl
    rw [decode_zero] at h
    cases h
  rw [runWord, if_neg h0, h]

/-- Everything a tick that is not already halted can be. -/
theorem step_cases (s : State) (h : s.rs ≠ .halted) :
    (s.poll.closeReq = true ∧ step s = .next s.poll.haltOnClose) ∨
    (s.poll.closeReq = false ∧ s.poll.fetch = none ∧ step s = .next (s.poll.raiseHalt .outOfRangeAddress 0)) ∨
    (s.poll.closeReq = false ∧ s.poll.fetch = some 0 ∧ step s = .next (s.poll.raiseHalt .sentinel 0)) ∨
    (∃ w, s.poll.closeReq = false ∧ s.poll.fetch = some w ∧ w ≠ 0 ∧ decode w = .unrecognized ∧
      step s = .next (s.poll.raiseHalt .unrecognizedInstruction w)) ∨
    (∃ w i, s.poll.closeReq = false ∧ s.poll.fetch = some w ∧ decode w = .instr i ∧
      step s = runInstr i s.poll) := by
  rw [step_polled s h]
  cases hc : s.poll.closeReq with
  | true => exact .inl ⟨rfl, afterPoll_close _ hc⟩
  | false =>
    right
    cases hf : s.poll.fetch with
    | none => exact .inl ⟨rfl, rfl, afterPoll_noWord _ hc hf⟩
    | some w =>
      right
      rw [afterPoll_word _ _ hc hf]
      by_cases h0 : w = 0
      · subst h0; exact .inl ⟨rfl, rfl, runWord_zero _⟩
      · right
        cases hd : decode w with
        | unrecognized => exact .inl ⟨w, rfl, rfl, h0, hd, runWord_unrecognized _ _ h0 hd⟩
        | instr i => exact .inr ⟨w, i, rfl, rfl, hd, runWord_instr _ _ _ hd⟩

theorem State.poll_fetch (s : State) : s.poll.fetch = s.fetch := by
  obtain ⟨_, h⟩ | ⟨_, _, _, h⟩ := s.poll_cases <;> rw [h] <;> rfl

theorem State.fetch_some_inside (s : State) (w : Word) (h : s.fetch = some w) : s.pc.toNat + 1 ≤ 0xFFF := by
  by_contra hc
  rw [State.fetch_outside s (by omega)] at h
  cases h

theorem runInstr_next (i : Instr) (s t : State) (h : runInstr i s = .next t) :
    ∃ u, exec i s = .next u ∧ t = u.endTick := by
  unfold runInstr at h
  split at h
  · exact ⟨_, ‹_›, (Host.Outcome.next.inj h).symm⟩
  · cases h
  · cases h

/-- The end of a tick writes the timers and the count of `present` events only. -/
theorem State.endTick_eq (s : State) :
    s.endTick = { s with dt := s.endTick.dt, st := s.endTick.st, frames := s.endTick.frames } := by
  unfold State.endTick
  split <;> rfl

/-! ### Runs -/

theorem run_zero (s : State) : Host.Core.run Sys2Proof.core 0 s = .next s := rfl

theorem core_run_succ (M : Host.Core) (k : Nat) (s t : M.State) (h : M.step s = .next t) :
    M.run (k + 1) s = M.run k t := by
  simp only [Host.Core.run, h]

theorem core_run_next (M : Host.Core) (k : Nat) (s t : M.State) (h : M.run (k + 1) s = .next t) :
    ∃ u, M.step s = .next u ∧ M.run k u = .next t := by
  simp only [Host.Core.run] at h
  split at h
  · exact ⟨_, ‹_›, h⟩
  · cases h
  · cases h

/-- One step, then the rest of the run. -/
theorem run_succ (k : Nat) (s t : State) (h : step s = .next t) :
    Host.Core.run Sys2Proof.core (k + 1) s = Host.Core.run Sys2Proof.core k t :=
  core_run_succ Sys2Proof.core k s t h

/-- A run that ends in a next state makes its first step to one. -/
theorem run_next (k : Nat) (s t : State) (h : Host.Core.run Sys2Proof.core (k + 1) s = .next t) :
    ∃ u, step s = .next u ∧ Host.Core.run Sys2Proof.core k u = .next t :=
  core_run_next Sys2Proof.core k s t h

end Sys2Proof.Machine
end

