-- ==== Sys2Proof/Laws/PerInstr.lean ====
section
/-! SUPPORT. Statements for all instructions, made per instruction. -/

namespace Sys2Proof.Laws.WellFormedInstr

/-- An instruction's operands are its format's fields, each in the range spec/30_encoding.md R64 gives it. -/
def Statement (i : Instr) : Prop := i.wellFormed = true

theorem fits_NNN (nnn : BitVec 12) : Format.admits .NNN { nnn := some nnn.toNat } = true := by
  simp [Format.admits, fieldOk, nnn.isLt]

theorem fits_XKK (x : Reg) (kk : Byte) : Format.admits .XKK { x := some x.val, kk := some kk.toNat } = true := by
  simp [Format.admits, fieldOk, x.isLt, kk.isLt]

theorem fits_XY (x y : Reg) : Format.admits .XY { x := some x.val, y := some y.val } = true := by
  simp [Format.admits, fieldOk, x.isLt, y.isLt]

theorem fits_XYN (x y : Reg) (n : Fin 16) :
    Format.admits .XYN { x := some x.val, y := some y.val, n := some n.val } = true := by
  simp [Format.admits, fieldOk, x.isLt, y.isLt, n.isLt]

theorem fits_X (x : Reg) : Format.admits .X { x := some x.val } = true := by
  simp [Format.admits, fieldOk, x.isLt]

theorem cls : Statement .cls := rfl
theorem ret : Statement .ret := rfl
theorem jp (nnn : BitVec 12) : Statement (.jp nnn) := fits_NNN nnn
theorem call (nnn : BitVec 12) : Statement (.call nnn) := fits_NNN nnn
theorem seImm (x : Reg) (kk : Byte) : Statement (.seImm x kk) := fits_XKK x kk
theorem sneImm (x : Reg) (kk : Byte) : Statement (.sneImm x kk) := fits_XKK x kk
theorem seReg (x y : Reg) : Statement (.seReg x y) := fits_XY x y
theorem ldImm (x : Reg) (kk : Byte) : Statement (.ldImm x kk) := fits_XKK x kk
theorem addImm (x : Reg) (kk : Byte) : Statement (.addImm x kk) := fits_XKK x kk
theorem ldReg (x y : Reg) : Statement (.ldReg x y) := fits_XY x y
theorem orReg (x y : Reg) : Statement (.orReg x y) := fits_XY x y
theorem andReg (x y : Reg) : Statement (.andReg x y) := fits_XY x y
theorem xorReg (x y : Reg) : Statement (.xorReg x y) := fits_XY x y
theorem addReg (x y : Reg) : Statement (.addReg x y) := fits_XY x y
theorem subReg (x y : Reg) : Statement (.subReg x y) := fits_XY x y
theorem shr (x y : Reg) : Statement (.shr x y) := fits_XY x y
theorem subn (x y : Reg) : Statement (.subn x y) := fits_XY x y
theorem shl (x y : Reg) : Statement (.shl x y) := fits_XY x y
theorem sneReg (x y : Reg) : Statement (.sneReg x y) := fits_XY x y
theorem ldI (nnn : BitVec 12) : Statement (.ldI nnn) := fits_NNN nnn
theorem jpV0 (nnn : BitVec 12) : Statement (.jpV0 nnn) := fits_NNN nnn
theorem rnd (x : Reg) (kk : Byte) : Statement (.rnd x kk) := fits_XKK x kk
theorem drw (x y : Reg) (n : Fin 16) : Statement (.drw x y n) := fits_XYN x y n
theorem skp (x : Reg) : Statement (.skp x) := fits_X x
theorem sknp (x : Reg) : Statement (.sknp x) := fits_X x
theorem ldVxDt (x : Reg) : Statement (.ldVxDt x) := fits_X x
theorem ldVxK (x : Reg) : Statement (.ldVxK x) := fits_X x
theorem ldDtVx (x : Reg) : Statement (.ldDtVx x) := fits_X x
theorem ldStVx (x : Reg) : Statement (.ldStVx x) := fits_X x
theorem addI (x : Reg) : Statement (.addI x) := fits_X x
theorem ldIFont (x : Reg) : Statement (.ldIFont x) := fits_X x
theorem ldBcd (x : Reg) : Statement (.ldBcd x) := fits_X x
theorem stRegs (x : Reg) : Statement (.stRegs x) := fits_X x
theorem ldRegs (x : Reg) : Statement (.ldRegs x) := fits_X x

end Sys2Proof.Laws.WellFormedInstr
end

