-- ==== Sys2Proof/Tests/Slice0.lean ====
section
/-! SUPPORT. The model's own tests. Expected values are those of spec/95_test_vectors.md (its row named at each
test) or of a rule's own example; each runs one step. Then, for each statement with hypotheses, a state that
meets them (`witness_…`). -/

namespace Sys2Proof.Tests

open Sys2Proof.Machine

/-! ### Ill-formed operands are refused (spec/30_encoding.md R64, R65) -/

theorem test_wf_x_too_large : Format.admits .X { x := some 16 } = false := by decide
theorem test_wf_x_missing : Format.admits .XKK { kk := some 1 } = false := by decide
theorem test_wf_x_extra : Format.admits .NNN { x := some 1, nnn := some 0x200 } = false := by decide
theorem test_wf_y_too_large : Format.admits .XY { x := some 1, y := some 16 } = false := by decide
theorem test_wf_y_extra : Format.admits .X { x := some 1, y := some 2 } = false := by decide
theorem test_wf_n_too_large : Format.admits .XYN { x := some 1, y := some 2, n := some 16 } = false := by decide
theorem test_wf_n_extra : Format.admits .XY { x := some 1, y := some 2, n := some 0 } = false := by decide
theorem test_wf_kk_too_large : Format.admits .XKK { x := some 1, kk := some 256 } = false := by decide
theorem test_wf_kk_extra : Format.admits .X { x := some 1, kk := some 7 } = false := by decide
theorem test_wf_nnn_too_large : Format.admits .NNN { nnn := some 4096 } = false := by decide
theorem test_wf_nnn_extra : Format.admits .N { nnn := some 0 } = false := by decide
theorem test_wf_accepts : Instr.wellFormed (.drw 15 15 15) = true := by decide

/-! ### Decoding: one word per template, written out from R66 nibble by nibble -/

theorem test_decode_control :
    decode 0x00E0 = .instr .cls ∧ decode 0x00EE = .instr .ret ∧ decode 0x1ABC = .instr (.jp 0xABC) ∧
    decode 0x2ABC = .instr (.call 0xABC) ∧ decode 0xBA00 = .instr (.jpV0 0xA00) := by decide

theorem test_decode_skips :
    decode 0x3A5C = .instr (.seImm 0xA 0x5C) ∧ decode 0x4A5C = .instr (.sneImm 0xA 0x5C) ∧
    decode 0x5120 = .instr (.seReg 1 2) ∧ decode 0x9AB0 = .instr (.sneReg 0xA 0xB) ∧
    decode 0xE19E = .instr (.skp 1) ∧ decode 0xE1A1 = .instr (.sknp 1) := by decide

theorem test_decode_alu :
    decode 0x6A02 = .instr (.ldImm 0xA 0x02) ∧ decode 0x7320 = .instr (.addImm 3 0x20) ∧
    decode 0x8AB0 = .instr (.ldReg 0xA 0xB) ∧ decode 0x8011 = .instr (.orReg 0 1) ∧
    decode 0x8012 = .instr (.andReg 0 1) ∧ decode 0x8013 = .instr (.xorReg 0 1) ∧
    decode 0x8014 = .instr (.addReg 0 1) ∧ decode 0x8015 = .instr (.subReg 0 1) ∧
    decode 0x8216 = .instr (.shr 2 1) ∧ decode 0x8217 = .instr (.subn 2 1) ∧
    decode 0x812E = .instr (.shl 1 2) ∧ decode 0xC30F = .instr (.rnd 3 0x0F) := by decide

theorem test_decode_memory_and_devices :
    decode 0xA300 = .instr (.ldI 0x300) ∧ decode 0xDABF = .instr (.drw 0xA 0xB 0xF) ∧
    decode 0xF207 = .instr (.ldVxDt 2) ∧ decode 0xF10A = .instr (.ldVxK 1) ∧
    decode 0xF015 = .instr (.ldDtVx 0) ∧ decode 0xF018 = .instr (.ldStVx 0) ∧
    decode 0xF21E = .instr (.addI 2) ∧ decode 0xF329 = .instr (.ldIFont 3) ∧
    decode 0xFC33 = .instr (.ldBcd 0xC) ∧ decode 0xF255 = .instr (.stRegs 2) ∧
    decode 0xF165 = .instr (.ldRegs 1) := by decide

/-- The UNRECOGNIZED rows of spec/95_test_vectors.md section 2. -/
theorem test_decode_unrecognized :
    [0x0000, 0x00E1, 0x0123, 0x5121, 0x8128, 0x812F, 0x9AB1, 0xE1A2, 0xF130, 0xF164, 0xFFFF].all
      (fun w => decode (BitVec.ofNat 16 w) == .unrecognized) = true := by decide

theorem test_encode_words :
    encode (.seImm 0xA 0x5C) = 0x3A5C ∧ encode (.shl 1 2) = 0x812E ∧ encode (.drw 0xA 0xB 0xF) = 0xDABF ∧
    encode (.jpV0 0xA00) = 0xBA00 ∧ encode (.ldIFont 3) = 0xF329 := by decide

theorem test_decodeTableWord : decodeTableWord 16 0xD011 = some (.drw 0 1 1) ∧ decodeTableWord 16 0x5121 = none := by
  decide

theorem test_font_has_80_bytes : defaultFont.length = 80 := by decide

/-! ### One step on a small state -/

/-- A poll with no key and no close request, and the draw of row A28. -/
def idle : TickInput := { keys := 0, closeReq := false, draw := 0xB7 }

/-- The reset state with one poll's inputs. -/
def base : State := { State.reset with script := [idle] }

/-- `f base` with the word `w` to run next. -/
def ready (w : Nat) (f : State → State) : State := (f base).withFetchWord 16 w

/-- A field of the next state, if there is one. -/
def after {α : Type} (o : Host.Outcome State Fault Refusal) (g : State → α) : Option α :=
  match o with
  | .next t => some (g t)
  | .fault _ => none
  | .refused _ => none

def withKeys (ks : BitVec 16) (s : State) : State := { s with script := [{ idle with keys := ks }] }

def withRule (r : Config.XfDestRule) (s : State) : State := { s with params := { s.params with xfDestRule := r } }

def policyContinues (s : State) : State := { s with params := { s.params with stackFaultPolicy := .continues } }

def bytesAt (a : Nat) (xs : List Byte) (s : State) : State := s.setMem (s.mem.writeBytes a xs)

/-- S1. -/
theorem test_tick_counts_timers : after (step (ready 0x6005 fun s => (s.setDt 3).setSt 3))
    (fun t => (t.getV 0, t.pc, t.dt, t.st, t.frames)) = some (5, 0x202, 2, 2, 1) := by decide

/-- S4. -/
theorem test_close_request : after (step { ready 0x6005 (fun s => s.setDt 3) with
      script := [{ idle with closeReq := true }] })
    (fun t => (t.rs, t.haltCause, t.getV 0, t.pc, t.dt, t.frames)) =
      some (.halted, .closeRequested, 0, 0x200, 3, 0) := by decide

/-- S5. -/
theorem test_sentinel : after (step (ready 0x0000 fun s => s.setDt 3))
    (fun t => (t.rs, t.haltCause, t.pc, t.dt, t.faultPc, t.faultWord)) =
      some (.halted, .sentinel, 0x200, 3, 0x200, 0) := by decide

/-- S6. -/
theorem test_unrecognized : after (step (ready 0x5121 fun s => s.setDt 3))
    (fun t => (t.rs, t.haltCause, t.faultPc, t.faultWord, t.dt)) =
      some (.halted, .unrecognizedInstruction, 0x200, 0x5121, 3) := by decide

/-- S9. -/
theorem test_fetch_out_of_range : after (step (base.setPc 0xFFF))
    (fun t => (t.rs, t.haltCause.code, t.faultPc, t.faultWord)) = some (.halted, 4, 0xFFF, 0) := by decide

/-- S10. -/
theorem test_odd_pc : after (step (ready 0x6007 fun s => s.setPc 0x201))
    (fun t => (t.getV 0, t.pc, t.rs)) = some (7, 0x203, .running) := by decide

/-- S7. -/
theorem test_last_word : after (step (ready 0x6001 fun s => s.setPc 0xFFE))
    (fun t => (t.getV 0, t.pc)) = some (1, 0x1000) := by decide

/-- CT3. -/
theorem test_jp : after (step (ready 0x1FFF id)) (fun t => t.pc) = some 0xFFF := by decide

/-- CT4. -/
theorem test_call : after (step (ready 0x2400 fun s => s.setPc 0x202))
    (fun t => (t.stack[0], t.sp, t.pc)) = some (0x204, 1, 0x400) := by decide

/-- CT6. -/
theorem test_call_overflow : after (step (ready 0x2300 fun s => { s with pc := 0x250, sp := 15 }))
    (fun t => (t.rs, t.haltCause.code, t.diagOvf, t.faultPc, t.faultWord, t.pc)) =
      some (.halted, 5, true, 0x250, 0x2300, 0x250) := by decide

/-- CT8. -/
theorem test_ret : after (step (ready 0x00EE fun s => { s with sp := 1, stack := s.stack.set 0 0x206 }))
    (fun t => (t.sp, t.pc, t.stack[0])) = some (0, 0x206, 0x206) := by decide

/-- CT10. -/
theorem test_ret_underflow_continues : after (step (ready 0x00EE fun s => (policyContinues s).setDt 3))
    (fun t => (t.rs, t.diagUnf, t.sp, t.pc, t.dt)) = some (.running, true, 0, 0x202, 2) := by decide

/-- CT12. -/
theorem test_jpV0 : after (step (ready 0xBFFF fun s => s.setV 0 0xFF)) (fun t => t.pc) = some 0x10FE := by decide

/-- CT14: nibble 2 is no register. -/
theorem test_jpV0_nibble2 : after (step (ready 0xBA00 fun s => (s.setV 0xA 0x40).setV 0 0x02)) (fun t => t.pc) =
    some 0xA02 := by decide

/-- SK1, SK2. -/
theorem test_seImm : after (step (ready 0x335C fun s => s.setV 3 0x5C)) (fun t => t.pc) = some 0x204 ∧
    after (step (ready 0x335C fun s => s.setV 3 0x5D)) (fun t => t.pc) = some 0x202 := by decide

/-- SK3, SK4. -/
theorem test_sneImm : after (step (ready 0x435C fun s => s.setV 3 0x5C)) (fun t => t.pc) = some 0x202 ∧
    after (step (ready 0x435C id)) (fun t => t.pc) = some 0x204 := by decide

/-- SK6. -/
theorem test_seReg : after (step (ready 0x5120 fun s => (s.setV 1 0x77).setV 2 0x78)) (fun t => t.pc) =
    some 0x202 := by decide

/-- SK8. -/
theorem test_sneReg : after (step (ready 0x9120 fun s => (s.setV 1 0x77).setV 2 0x78)) (fun t => t.pc) =
    some 0x204 := by decide

/-- A2. -/
theorem test_ldImm : after (step (ready 0x6F00 fun s => s.setV 15 7)) (fun t => t.getV 15) = some 0 := by decide

/-- W1. -/
theorem test_addImm : after (step (ready 0x7320 fun s => (s.setV 3 0xF0).setV 15 0x55))
    (fun t => (t.getV 3, t.getV 15)) = some (0x10, 0x55) := by decide

/-- A5. -/
theorem test_ldReg : after (step (ready 0x8010 fun s => s.setV 1 0x33)) (fun t => t.getV 0) = some 0x33 := by decide

/-- A6. -/
theorem test_orReg : after (step (ready 0x8011 fun s => ((s.setV 0 0xF0).setV 1 0x0F).setV 15 9))
    (fun t => (t.getV 0, t.getV 15)) = some (0xFF, 9) := by decide

/-- A7. -/
theorem test_andReg : after (step (ready 0x8012 fun s => (s.setV 0 0xF0).setV 1 0x3C)) (fun t => t.getV 0) =
    some 0x30 := by decide

/-- A8. -/
theorem test_xorReg : after (step (ready 0x8013 fun s => (s.setV 0 0xF0).setV 1 0x3C)) (fun t => t.getV 0) =
    some 0xCC := by decide

/-- A14: y = 15 reads the old VF. -/
theorem test_addReg : after (step (ready 0x80F4 fun s => (s.setV 0 0x10).setV 15 5))
    (fun t => (t.getV 0, t.getV 15)) = some (0x15, 0) := by decide

/-- 0x8F14 of "VF as destination", under each rule. -/
theorem test_addReg_to_VF : [.sequential, .snapshot, .flagWins].map (fun r =>
      after (step (ready 0x8F14 fun s => withRule r ((s.setV 15 0xF0).setV 1 0x20))) (fun t => t.getV 15)) =
    [some 0x10, some 0x10, some 0x01] := by decide

/-- A15. -/
theorem test_subReg : after (step (ready 0x8015 fun s => (s.setV 0 5).setV 1 7))
    (fun t => (t.getV 0, t.getV 15)) = some (0xFE, 0) := by decide

/-- 0x8F15 of "VF as destination", under each rule. -/
theorem test_subReg_to_VF : [.sequential, .snapshot, .flagWins].map (fun r =>
      after (step (ready 0x8F15 fun s => withRule r ((s.setV 15 3).setV 1 5))) (fun t => t.getV 15)) =
    [some 0xFE, some 0xFE, some 0x00] := by decide

/-- A22: V1 is not read. -/
theorem test_shr : after (step (ready 0x8016 fun s => (s.setV 0 0xFE).setV 1 1))
    (fun t => (t.getV 0, t.getV 15)) = some (0x7F, 0) := by decide

/-- 0x8F06 of "VF as destination", under each rule. -/
theorem test_shr_to_VF : [.sequential, .snapshot, .flagWins].map (fun r =>
      after (step (ready 0x8F06 fun s => withRule r (s.setV 15 0x81))) (fun t => t.getV 15)) =
    [some 0x00, some 0x40, some 0x01] := by decide

/-- A24. -/
theorem test_subn : after (step (ready 0x8017 fun s => (s.setV 0 5).setV 1 7))
    (fun t => (t.getV 0, t.getV 15)) = some (2, 1) := by decide

/-- A25. -/
theorem test_shl : after (step (ready 0x800E fun s => s.setV 0 0x81))
    (fun t => (t.getV 0, t.getV 15)) = some (2, 1) := by decide

/-- 0x8F0E of "VF as destination", under each rule. -/
theorem test_shl_to_VF : [.sequential, .snapshot, .flagWins].map (fun r =>
      after (step (ready 0x8F0E fun s => withRule r (s.setV 15 0xF0))) (fun t => t.getV 15)) =
    [some 0x02, some 0xE0, some 0x01] := by decide

/-- A28. -/
theorem test_rnd : after (step (ready 0xC30F id)) (fun t => t.getV 3) = some 7 := by decide

/-- M1. -/
theorem test_ldI : after (step (ready 0xA300 id)) (fun t => t.i) = some 0x300 := by decide

/-- M4. -/
theorem test_addI : after (step (ready 0xF21E fun s => (s.setI 0xF80).setV 2 0xFF))
    (fun t => (t.i, t.getV 15, t.rs)) = some (0x07F, 0, .running) := by decide

/-- M6. -/
theorem test_ldIFont : after (step (ready 0xF029 fun s => s.setV 0 0x1A)) (fun t => t.i) = some 0x032 := by decide

/-- W8. -/
theorem test_ldBcd : after (step (ready 0xF533 fun s => (s.setI 0x300).setV 5 234))
    (fun t => (t.readByte 0x300, t.readByte 0x301, t.readByte 0x302, t.i)) = some (2, 3, 4, 0x300) := by decide

/-- M10. -/
theorem test_ldBcd_out_of_range : after (step (ready 0xFC33 fun s => (s.setI 0xFFE).setV 12 234))
    (fun t => (t.haltCause.code, t.faultPc, t.faultWord, t.readByte 0xFFE)) = some (4, 0x200, 0xFC33, 0) := by decide

/-- M11. -/
theorem test_stRegs : after (step (ready 0xF255 fun s =>
      (((s.setI 0x300).setV 0 0x11).setV 1 0x22).setV 2 0x33))
    (fun t => (t.readByte 0x300, t.readByte 0x301, t.readByte 0x302, t.readByte 0x303, t.i)) =
      some (0x11, 0x22, 0x33, 0, 0x300) := by decide

/-- M17: the font area is writable. -/
theorem test_stRegs_over_font : after (step (ready 0xF055 fun s => s.setV 0 0x99)) (fun t => t.readByte 0) =
    some 0x99 := by decide

/-- M14. -/
theorem test_ldRegs : after (step (ready 0xF265 fun s => bytesAt 0x300 [2, 3, 4] (s.setI 0x300)))
    (fun t => (t.getV 0, t.getV 1, t.getV 2, t.getV 3)) = some (2, 3, 4, 0) := by decide

/-- M16. -/
theorem test_ldRegs_out_of_range : after (step (ready 0xF165 fun s => s.setI 0xFFF))
    (fun t => (t.haltCause.code, t.getV 0, t.getV 1)) = some (4, 0, 0) := by decide

/-- D1. -/
theorem test_cls : after (step (ready 0x00E0 fun s => s.setDisp (s.disp.togglePixel 5 6).1))
    (fun t => (t.disp.pixel 5 6, t.disp.pixel 63 31, t.pc)) = some (false, false, 0x202) := by decide

/-- D6: wrap-around of the rows. -/
theorem test_drw_wraps : after (step (ready 0xD012 fun s => bytesAt 0x300 [0x80, 0x80] ((s.setI 0x300).setV 1 31)))
    (fun t => (t.disp.pixel 0 31, t.disp.pixel 0 0, t.disp.pixel 0 1, t.getV 15)) =
      some (true, true, false, 0) := by decide

/-- D10: a collision, most significant bit first. -/
theorem test_drw_collides : after (step (ready 0xD011 fun s =>
      (bytesAt 0x300 [0xC0] (s.setI 0x300)).setDisp (s.disp.togglePixel 1 0).1))
    (fun t => (t.disp.pixel 0 0, t.disp.pixel 1 0, t.getV 15)) = some (true, false, 1) := by decide

/-- T3: the low nibble selects the key. -/
theorem test_skp : after (step (ready 0xE19E fun s => withKeys 0x0020 (s.setV 1 0x25))) (fun t => t.pc) =
    some 0x204 := by decide

/-- T5. -/
theorem test_sknp : after (step (ready 0xE1A1 fun s => withKeys 0x0020 (s.setV 1 0x05))) (fun t => t.pc) =
    some 0x202 := by decide

/-- T6. -/
theorem test_ldVxDt : after (step (ready 0xF207 fun s => s.setDt 3)) (fun t => (t.getV 2, t.dt)) = some (3, 2) := by
  decide

/-- T8. -/
theorem test_ldDtVx : after (step (ready 0xF015 fun s => s.setV 0 5)) (fun t => t.dt) = some 4 := by decide

/-- T11. -/
theorem test_ldStVx : after (step (ready 0xF018 fun s => s.setV 0 5)) (fun t => t.st) = some 4 ∧
    after (step (ready 0xF018 fun s =>
      { s.setV 0 5 with params := { s.params with stDecrements := false } })) (fun t => t.st) = some 5 := by decide

/-- T12. -/
theorem test_ldVxK_waits : after (step (ready 0xF10A fun s => (s.setDt 4).setV 1 9))
    (fun t => (t.rs, t.pc, t.dt, t.getV 1)) = some (.waitingForKey, 0x200, 4, 9) := by decide

/-- T13. -/
theorem test_ldVxK_completes : after (step (ready 0xF10A fun s => withKeys 0x0480 ((s.setDt 4).setRs .waitingForKey)))
    (fun t => (t.rs, t.getV 1, t.pc, t.dt)) = some (.running, 7, 0x202, 3) := by decide

/-- R39, R138: the codes. -/
theorem test_codes : [RunState.running, .waitingForKey, .halted].map RunState.code = [0, 1, 2] ∧
    [HaltCause.none, .sentinel, .closeRequested, .unrecognizedInstruction, .outOfRangeAddress, .stackOverflow,
      .stackUnderflow, .romTooLarge].map HaltCause.code = [0, 1, 2, 3, 4, 5, 6, 7] := by decide

/-- R45, R157: the reset state is an instance with the default parameters, the recommended contents and no ROM. -/
theorem test_reset_is_powerOn : powerOn .default defaultFontBytes .zero [] [] = State.reset := by decide

/-- R158: a ROM byte is at 0x200 onwards. -/
theorem test_rom_load : (powerOn .default defaultFontBytes .zero [0x60, 0x0A] []).fetch = some 0x600A := by decide

/-! ### Witnesses of the statements' hypotheses -/

/-- A state that meets the invariant, with one return address held. -/
def called : State := { base with sp := 1, stack := base.stack.set 0 0x206 }

theorem called_inv : called.Inv where
  index := by decide
  pcBound := by decide
  spBound := by decide
  returns := by decide
  memory := by decide
  halts := by decide
  overflow := by decide
  underflow := by decide

theorem witness_DecodeOfEncodeIsTheInstruction : Instr.wellFormed (.drw 15 0 15) = true := by decide

theorem witness_EncodeOfDecodeIsTheWord : decode 0x8FFE = .instr (.shl 15 15) := by decide

/-- For each of the 34 clauses, a word at the end of its range. -/
theorem witness_EveryTemplateRowDecodes :
    [(0xFFFF, 0x00E0, 0x00E0), (0xFFFF, 0x00EE, 0x00EE), (0xF000, 0x1000, 0x1FFF), (0xF000, 0x2000, 0x2FFF),
     (0xF000, 0x3000, 0x3FFF), (0xF000, 0x4000, 0x4FFF), (0xF00F, 0x5000, 0x5FF0), (0xF000, 0x6000, 0x6FFF),
     (0xF000, 0x7000, 0x7FFF), (0xF00F, 0x8000, 0x8FF0), (0xF00F, 0x8001, 0x8FF1), (0xF00F, 0x8002, 0x8FF2),
     (0xF00F, 0x8003, 0x8FF3), (0xF00F, 0x8004, 0x8FF4), (0xF00F, 0x8005, 0x8FF5), (0xF00F, 0x8006, 0x8FF6),
     (0xF00F, 0x8007, 0x8FF7), (0xF00F, 0x800E, 0x8FFE), (0xF00F, 0x9000, 0x9FF0), (0xF000, 0xA000, 0xAFFF),
     (0xF000, 0xB000, 0xBFFF), (0xF000, 0xC000, 0xCFFF), (0xF000, 0xD000, 0xDFFF), (0xF0FF, 0xE09E, 0xEF9E),
     (0xF0FF, 0xE0A1, 0xEFA1), (0xF0FF, 0xF007, 0xFF07), (0xF0FF, 0xF00A, 0xFF0A), (0xF0FF, 0xF015, 0xFF15),
     (0xF0FF, 0xF018, 0xFF18), (0xF0FF, 0xF01E, 0xFF1E), (0xF0FF, 0xF029, 0xFF29), (0xF0FF, 0xF033, 0xFF33),
     (0xF0FF, 0xF055, 0xFF55), (0xF0FF, 0xF065, 0xFF65)].all
      (fun p : Word × Word × Word => p.2.2 &&& p.1 == p.2.1) = true := by decide

theorem witness_TemplatesDisjointInAnyOrder : templates.reverse.Perm templates := templates.reverse_perm

/-- For each clause of the list, a word next to a recognised one. -/
theorem witness_UnrecognizedWordsAreThoseListed :
    [0x00EF, 0x5001, 0x8008, 0x800D, 0x800F, 0x900F, 0xE09F, 0xF066].all
      (fun w => !(BitVec.ofNat 16 w == 0) && decode (BitVec.ofNat 16 w) == .unrecognized) = true := by decide

theorem ready_fetches : Fetches (ready 0x6005 id) (.ldImm 0 5) :=
  ⟨by decide, by decide, by decide, by decide⟩

theorem witness_StepRunsTheDecodedInstruction : Fetches (ready 0x6005 id) (.ldImm 0 5) := ready_fetches

theorem witness_HaltedIsTerminal : (base.setRs .halted).rs = .halted := rfl

/-- In WAITING_FOR_KEY as in RUNNING. -/
theorem witness_CloseRequestHaltsFirst :
    [RunState.running, .waitingForKey].all (fun r =>
      !decide ({ base.setRs r with script := [{ idle with closeReq := true }] }.rs = .halted) &&
      { base.setRs r with script := [{ idle with closeReq := true }] }.poll.closeReq) = true := by decide

/-- Both sides of the last address at which a word can be fetched. -/
theorem witness_FetchIsBigEndianOrHalts :
    (base.setPc 0xFFE).pc.toNat ≤ 0xFFE ∧ 0xFFE < (base.setPc 0xFFF).pc.toNat ∧
    (base.setPc 0xFFF).rs ≠ .halted ∧ (base.setPc 0xFFF).poll.closeReq = false := by decide

theorem witness_LoopHaltsRecordTheirCause :
    base.rs ≠ .halted ∧ base.poll.closeReq = false ∧ (base.setPc 0xFFF).fetch = none ∧ base.fetch = some 0 ∧
    (ready 0x5121 id).fetch = some 0x5121 ∧ decode 0x5121 = .unrecognized := by decide

/-- A tick that halts and one that does not. -/
theorem witness_HaltsFollowThePriorityList :
    base.rs ≠ .halted ∧ (∃ t, step base = .next t) ∧ haltCondition base.poll ≠ .none ∧
    (ready 0x6005 id).rs ≠ .halted ∧ (∃ t, step (ready 0x6005 id) = .next t) ∧
    haltCondition (ready 0x6005 id).poll = .none :=
  ⟨by decide, ⟨_, rfl⟩, by decide, by decide, ⟨_, rfl⟩, by decide⟩

theorem witness_EveryHaltIsPrecise : base.rs ≠ .halted ∧ ∃ t, step base = .next t ∧ t.rs = .halted :=
  ⟨by decide, _, rfl, rfl⟩

theorem witness_EndOfTickCountsTheTimers :
    base.rs = .running ∧ base.params.stDecrements = true ∧ (base.setRs .waitingForKey).rs = .waitingForKey ∧
    (base.setRs .halted).rs = .halted ∧
    { base with params := { base.params with stDecrements := false } }.params.stDecrements = false := by decide

theorem witness_TimerTicksInTheTickThatUsesIt :
    base.rs = .running ∧ Fetches (ready 0xF015 id) (.ldDtVx 0) ∧ Fetches (ready 0xF018 id) (.ldStVx 0) ∧
    Fetches (ready 0xF207 id) (.ldVxDt 2) :=
  ⟨by decide, ⟨by decide, by decide, by decide, by decide⟩, ⟨by decide, by decide, by decide, by decide⟩,
    ⟨by decide, by decide, by decide, by decide⟩⟩

/-- No key, key 15 alone, and key 0. -/
theorem witness_KeyWaitFreezesUntilAKey :
    Fetches (ready 0xF10A id) (.ldVxK 1) ∧ (∀ k < 16, (ready 0xF10A id).poll.keys.getLsbD k = false) ∧
    Fetches (ready 0xF10A (withKeys 0x8000)) (.ldVxK 1) ∧
    (ready 0xF10A (withKeys 0x8000)).poll.keys.getLsbD 15 = true ∧
    (∀ j < 15, (ready 0xF10A (withKeys 0x8000)).poll.keys.getLsbD j = false) ∧
    (ready 0xF10A (withKeys 0x0001)).poll.keys.getLsbD 0 = true :=
  ⟨⟨by decide, by decide, by decide, by decide⟩, by decide, ⟨by decide, by decide, by decide, by decide⟩,
    by decide, by decide, by decide⟩

theorem ready_not_keyWait (x : Reg) : ¬ Fetches (ready 0x6005 id) (.ldVxK x) := by
  intro h
  have h1 := h.2.2.2
  rw [ready_fetches.2.2.2] at h1
  simp at h1

/-- `base` has the sentinel at PC. -/
theorem base_not_keyWait (r : RunState) (x : Reg) : ¬ Fetches (base.setRs r) (.ldVxK x) := by
  intro h
  have h1 := h.2.2.2
  rw [show decodeBytes [(base.setRs r).readByte (base.setRs r).pc.toNat,
    (base.setRs r).readByte ((base.setRs r).pc.toNat + 1)] = .unrecognized 0 from by cases r <;> decide] at h1
  simp at h1

/-- Each clause; the last with a tick that goes on and with one that halts. -/
theorem witness_RunStateTransitions :
    (∃ t, step (base.setRs .halted) = .next t) ∧
    (∃ t, step { base with script := [{ idle with closeReq := true }] } = .next t) ∧
    { base with script := [{ idle with closeReq := true }] }.poll.closeReq = true ∧
    (∃ t, step (ready 0xF10A id) = .next t) ∧ Fetches (ready 0xF10A id) (.ldVxK 1) ∧
    (∀ k < 16, (ready 0xF10A id).poll.keys.getLsbD k = false) ∧
    (∃ t, step (ready 0xF10A (withKeys 0x8000)) = .next t) ∧ Fetches (ready 0xF10A (withKeys 0x8000)) (.ldVxK 1) ∧
    (ready 0xF10A (withKeys 0x8000)).poll.keys.getLsbD 15 = true ∧
    (∃ t, step (ready 0x6005 id) = .next t) ∧ (ready 0x6005 id).rs = .running ∧
    haltCondition (ready 0x6005 id).poll = .none ∧
    (∃ t, step (base.setRs .running) = .next t) ∧ (base.setRs .running).poll.closeReq = false ∧
    haltCondition (base.setRs .running).poll ≠ .none :=
  ⟨⟨_, rfl⟩, ⟨_, rfl⟩, by decide, ⟨_, rfl⟩, ⟨by decide, by decide, by decide, by decide⟩,
    by decide, ⟨_, rfl⟩, ⟨by decide, by decide, by decide, by decide⟩, by decide, ⟨_, rfl⟩, by decide, by decide,
    ⟨_, rfl⟩, by decide, by decide⟩

theorem witness_RunStateTransitions_noKeyWait :
    (∀ x, ¬ Fetches (ready 0x6005 id) (.ldVxK x)) ∧ (∀ x, ¬ Fetches (base.setRs .running) (.ldVxK x)) :=
  ⟨ready_not_keyWait, base_not_keyWait .running⟩

theorem witness_PollTakesTheNextInputs : base.script = [idle] ∧ State.reset.script = [] := by decide

theorem witness_EveryStepKeepsTheStateInvariant : called.Inv ∧ ∃ t, step called = .next t :=
  ⟨called_inv, _, rfl⟩

theorem witness_NoRunFaultsOrRefuses : called.Inv := called_inv

/-- A state that waits at an `Fx0A`. -/
theorem witness_EveryStepKeepsTheWaitInvariant :
    ((ready 0xF10A id).setRs .waitingForKey).WaitInv ∧
    ((ready 0xF10A id).setRs .waitingForKey).rs = .waitingForKey ∧
    ∃ t, step ((ready 0xF10A id).setRs .waitingForKey) = .next t :=
  ⟨fun _ => ⟨0xF10A, 1, by decide, by decide⟩, rfl, _, rfl⟩

theorem witness_NoStepChangesTheParameters : ∃ t, step (ready 0x6005 id) = .next t := ⟨_, rfl⟩

theorem witness_OnlyTheNamedInstructionsWrite :
    (∃ t, exec (.ldImm 3 5) base = .next t) ∧ writesReg (.ldImm 3 5) 15 = false ∧
    (∀ n, Instr.ldImm 3 5 ≠ .ldI n) ∧ ownCondition (.ldImm 3 5) base = .none ∧
    (∀ x, Instr.ldImm 3 5 ≠ .ldVxK x) ∧ Instr.ldImm 3 5 ≠ .ret ∧ (∀ n, Instr.ldImm 3 5 ≠ .call n) ∧
    (∃ t, exec (.stRegs 3) base = .next t) ∧ ownCondition (.stRegs 3) base = .none :=
  ⟨⟨_, rfl⟩, by decide, by simp, by decide, by simp, by simp, by simp, ⟨_, rfl⟩, by decide⟩

theorem witness_FlagSettersAlwaysOverwriteVF :
    flagDest (.addReg 0 1) = some 0 ∧ (0 : Reg) ≠ regF ∧
    (base.setI 0xFFF).i.toNat + (1 : Fin 16).val - 1 ≤ 0xFFF ∧
    (∃ t, exec (.ldImm 3 5) base = .next t) ∧ writesReg (.ldImm 3 5) regF = false :=
  ⟨by decide, by decide, by decide, ⟨_, rfl⟩, by decide⟩

/-- SP at both ends of the range. -/
theorem witness_JumpSetsPc : base.rs = .running ∧ base.params.stDecrements = true := by decide

theorem witness_CallPushesTheNextAddress : base.sp.toNat < 15 ∧ ({ base with sp := 14 } : State).sp.toNat < 15 := by
  decide

/-- SP at both ends of the range. -/
theorem witness_ReturnPopsTheTopCell :
    called.sp.toNat = (0 : Fin 16).val + 1 ∧ ({ base with sp := 15 } : State).sp.toNat = (14 : Fin 16).val + 1 := by
  decide

theorem witness_CallOverflowIsReported :
    ({ base with sp := 15 } : State).sp = 15 ∧ base.params.stackFaultPolicy = .halt ∧
    (policyContinues base).params.stackFaultPolicy = .continues := by decide

theorem witness_ReturnUnderflowIsReported : base.sp = 0 := by decide

theorem witness_StackHasNoCellBeyondItsSixteen :
    15 < ({ base with sp := 16 } : State).sp.toNat ∧ 16 < ({ base with sp := 17 } : State).sp.toNat := by decide

theorem witness_CallThenReturnComesBack : base.sp.toNat < 15 ∧ ∃ t, exec (.call 0x300) base = .next t :=
  ⟨by decide, _, rfl⟩

/-- An equal and an unequal operand for each skip, and a word of each unrecognized kind. -/
theorem witness_RegisterSkipsAdvanceByFourOrTwo :
    base.getV 3 = 0 ∧ base.getV 3 ≠ 1 ∧ base.getV 3 = base.getV 4 ∧ (base.setV 3 1).getV 3 ≠ (base.setV 3 1).getV 4 ∧
    (0x5121 : Word) &&& 0xF000 = 0x5000 ∧ (0x5121 : Word) &&& 0x000F ≠ 0 ∧
    (0x912F : Word) &&& 0xF000 = 0x9000 ∧ (0x912F : Word) &&& 0x000F ≠ 0 := by
  decide

theorem witness_KeySkipsTestTheSampledKey :
    base.keys.getLsbD ((base.getV 1).toNat % 16) = false ∧
    ({ base with keys := 1 } : State).keys.getLsbD ((base.getV 1).toNat % 16) = true := by decide

/-- x = 15 and x other than 15, under each rule. -/
theorem witness_AddSetsSumAndCarry :
    (0 : Reg) ≠ regF ∧ (15 : Reg) = regF ∧ (withRule .sequential base).params.xfDestRule ≠ .flagWins ∧
    (withRule .snapshot base).params.xfDestRule ≠ .flagWins ∧
    (withRule .flagWins base).params.xfDestRule = .flagWins := by decide

theorem witness_SubtractionsSetDifferenceAndNoBorrow :
    (0 : Reg) ≠ regF ∧ (15 : Reg) = regF ∧ (withRule .sequential base).params.xfDestRule ≠ .flagWins ∧
    (withRule .flagWins base).params.xfDestRule = .flagWins := by decide

theorem witness_ShiftsMoveOneBitIntoVF :
    (0 : Reg) ≠ regF ∧ (15 : Reg) = regF ∧ (withRule .sequential base).params.xfDestRule = .sequential ∧
    (withRule .snapshot base).params.xfDestRule = .snapshot ∧
    (withRule .flagWins base).params.xfDestRule = .flagWins := by decide

/-- I at the last address that is in range. -/
theorem witness_BcdStoresThreeDigits :
    (base.setI 0xFFD).mem.wf = true ∧ addrAt (base.setI 0xFFD) 2 ≤ 0xFFF := by decide

theorem witness_StoreRegistersWritesEachByte :
    (base.setI 0xFF0).mem.wf = true ∧ addrAt (base.setI 0xFF0) (15 : Reg).val ≤ 0xFFF := by decide

theorem witness_LoadRegistersReadsEachByte : addrAt (base.setI 0xFFF) (0 : Reg).val ≤ 0xFFF := by decide

/-- I at the first address that is out of range, for each form. -/
theorem witness_OutOfRangeAccessDoesNothingElse :
    0xFFF < addrAt (base.setI 0xFFE) 2 ∧ 0xFFF < addrAt (base.setI 0xFF1) (15 : Reg).val ∧
    (0 < (2 : Fin 16).val ∧ 0xFFF < addrAt (base.setI 0xFFF) ((2 : Fin 16).val - 1)) := by decide

theorem witness_StoredWordIsTheWordFetched :
    (base.setI 0x204).mem.wf = true ∧ addrAt (base.setI 0x204) (1 : Reg).val ≤ 0xFFF ∧
    (∃ t, exec (.stRegs 1) (base.setI 0x204) = .next t) ∧ (1 : Reg).val = (0 : Reg).val + 1 ∧
    ((base.setI 0x204).setPc 0x204).pc.toNat = addrAt (base.setI 0x204) (0 : Reg).val :=
  ⟨by decide, by decide, ⟨_, rfl⟩, by decide, by decide⟩

/-- n = 0, and the last row in range. -/
theorem witness_DrawFlipsTheCoveredPixels :
    (0 : Fin 16).val = 0 ∧ (base.setI 0xFF1).i.toNat + (15 : Fin 16).val - 1 ≤ 0xFFF ∧
    SpriteCovers base 0 0 1 0 0 ∧ ¬ SpriteCovers base 0 0 0 0 0 ∧ base.disp.pixel 0 0 = false ∧
    (base.setDisp (base.disp.togglePixel 0 0).1).disp.pixel 0 0 = true :=
  ⟨by decide, by decide, ⟨0, 0, by decide⟩, fun ⟨r, c, h, _⟩ => absurd h (Nat.not_lt_zero r), by decide, by decide⟩

theorem witness_DrawingTwiceRestoresTheGrid :
    ∃ t v, exec (.drw 0 0 1) base = .next t ∧ exec (.drw 0 0 1) t = .next v ∧
      base.i.toNat + (1 : Fin 16).val - 1 ≤ 0xFFF ∧ t.i = base.i ∧ t.mem = base.mem ∧ t.getV 0 = base.getV 0 :=
  ⟨_, _, rfl, rfl, by decide, rfl, rfl, by decide⟩

theorem witness_DelayTimerTransfers : base.rs = .running := rfl

theorem witness_SoundTimerTransfer :
    base.rs = .running ∧ base.params.stDecrements = true ∧
    { base with params := { base.params with stDecrements := false } }.params.stDecrements = false := by decide

/-- No key, the least key and the greatest. -/
theorem witness_KeyWaitLoadsTheFirstKeyOrWaits :
    (∀ k < 16, base.keys.getLsbD k = false) ∧ (0x0001 : BitVec 16).getLsbD 0 = true ∧
    (0x8000 : BitVec 16).getLsbD 15 = true ∧ (∀ j < 15, (0x8000 : BitVec 16).getLsbD j = false) := by decide

/-- Images of length 0 and 3584. -/
theorem witness_PowerOnLoadsFontAndRom :
    ([] : List Byte).length ≤ 3584 ∧ (List.replicate 3584 (0 : Byte)).length ≤ 3584 :=
  ⟨Nat.zero_le _, Nat.le_of_eq List.length_replicate⟩

theorem witness_RomTooLargeNeverStarts : 3584 < (List.replicate 3585 (0 : Byte)).length := by
  rw [List.length_replicate]; decide

theorem witness_DeadStackCellsAreUnobservable :
    called.Inv ∧ SameButDeadStack called { called with stack := called.stack.set 15 0x123 } ∧
    ∃ t, Host.Core.run Sys2Proof.core 1 called = .next t :=
  ⟨called_inv, ⟨rfl, by decide⟩, _, rfl⟩

theorem witness_SoundTimerIsUnobservable :
    SameButSound base { base with st := 9, params := { base.params with stDecrements := false } } ∧
    ∃ t, Host.Core.run Sys2Proof.core 1 base = .next t :=
  ⟨rfl, _, rfl⟩

/-- A word other than `Fx0A` while waiting: one that runs and the sentinel, which halts. -/
theorem witness_WaitingWithAnotherWordRunsIt :
    (ready 0x6005 (fun s => s.setRs .waitingForKey)).rs = .waitingForKey ∧
    (ready 0x6005 (fun s => s.setRs .waitingForKey)).poll.closeReq = false ∧
    (∀ x, ¬ Fetches (ready 0x6005 (fun s => s.setRs .waitingForKey)) (.ldVxK x)) ∧
    (∃ t, step (ready 0x6005 (fun s => s.setRs .waitingForKey)) = .next t) ∧
    haltCondition (ready 0x6005 (fun s => s.setRs .waitingForKey)).poll = .none ∧
    (base.setRs .waitingForKey).poll.closeReq = false ∧
    (∀ x, ¬ Fetches (base.setRs .waitingForKey) (.ldVxK x)) ∧
    (∃ t, step (base.setRs .waitingForKey) = .next t) ∧
    haltCondition (base.setRs .waitingForKey).poll ≠ .none := by
  refine ⟨by decide, by decide, fun x h => ready_not_keyWait x ⟨by decide, by decide, h.2.2⟩, ⟨_, rfl⟩, by decide,
    by decide, base_not_keyWait .waitingForKey, ⟨_, rfl⟩, by decide⟩

end Sys2Proof.Tests
end

section
/-! PROOF. The template decoder of spec/30_encoding.md R66 to R68: no word matches two rows, so the order in
which R67 tries the rows does not matter and every row decodes every word it matches. -/

namespace Sys2Proof

theorem Template.accepts_iff (t : Template) (w : Word) : t.accepts w = true ↔ w &&& t.mask = t.lit :=
  beq_iff_eq

/-- No word matches both templates (R68). -/
def Template.Exclusive (t u : Template) : Prop :=
  ∀ w : Word, ¬ (t.accepts w = true ∧ u.accepts w = true)

theorem Template.exclusive_of_literals_differ {t u : Template} (h : t.lit &&& u.mask ≠ u.lit &&& t.mask) :
    t.Exclusive u := by
  rintro w ⟨ht, hu⟩
  rw [Template.accepts_iff] at ht hu
  exact not_matches_other w t.mask t.lit u.mask u.lit ht h hu

theorem templates_literals_differ :
    templates.Pairwise (fun t u => t.lit &&& u.mask ≠ u.lit &&& t.mask) := by decide

theorem templates_pairwise_exclusive : templates.Pairwise Template.Exclusive :=
  templates_literals_differ.imp Template.exclusive_of_literals_differ

/-- In a list of exclusive templates the one that matches decides, wherever it stands. -/
theorem decodeWith_of_accepts {ts : List Template} (hts : ts.Pairwise Template.Exclusive) {t : Template}
    (ht : t ∈ ts) {w : Word} (hw : t.accepts w = true) : decodeWith ts w = .instr (t.build w) := by
  have hfind : ts.find? (fun u => u.accepts w) = some t := by
    induction hts with
    | nil => cases ht
    | @cons u us hu _ ih =>
      cases ht with
      | head => exact List.find?_cons_of_pos hw
      | tail _ htail =>
        have hskip : ¬ u.accepts w = true := fun huw => hu t htail w ⟨huw, hw⟩
        simpa [hskip] using ih htail
  rw [decodeWith, hfind]

theorem decode_of_matches {t : Template} (ht : t ∈ templates) {w : Word} (hw : w &&& t.mask = t.lit) :
    decode w = .instr (t.build w) :=
  decodeWith_of_accepts templates_pairwise_exclusive ht ((t.accepts_iff w).2 hw)

/-- Settles O4: the statement is `decode_of_matches` written out row by row. -/
theorem everyTemplateRowDecodes : Obligations.EveryTemplateRowDecodes := by
  intro w
  have hrows : ∀ t ∈ templates, w &&& t.mask = t.lit → decode w = .instr (t.build w) :=
    fun _ ht hw => decode_of_matches ht hw
  simp only [templates, List.cons_append, List.nil_append, List.forall_mem_cons, List.not_mem_nil,
    false_implies, implies_true, and_true] at hrows
  exact hrows

end Sys2Proof
end

section
/-! PROOF. The step loop of spec/40_step_loop.md: the tick that runs a decoded instruction (R84), the halted
machine (R82), the close request (R81) and the transitions of RS (R91). One fact carries the last: away from
`Fx0A` a tick halts with the first condition of the priority list, or keeps RS (`step_haltsBy`). -/

namespace Sys2Proof.Machine

/-! ### The end of a tick leaves RS, the cause, PC and the registers alone -/

@[simp] theorem State.endTick_rs (s : State) : s.endTick.rs = s.rs := by rw [s.endTick_eq]

@[simp] theorem State.endTick_haltCause (s : State) : s.endTick.haltCause = s.haltCause := by
  rw [s.endTick_eq]

@[simp] theorem State.endTick_pc (s : State) : s.endTick.pc = s.pc := by rw [s.endTick_eq]

@[simp] theorem State.endTick_getV (s : State) (r : Reg) : s.endTick.getV r = s.getV r := by
  rw [s.endTick_eq]; rfl

/-! ### The tick of a decoded instruction -/

theorem decodeBytes_pair_iff (hi lo : Byte) (i : Instr) :
    decodeBytes [hi, lo] = .instr i [] ↔ decode (wordOfBytes hi lo) = .instr i := by
  cases h : decode (wordOfBytes hi lo) <;> simp [decodeBytes, h]

theorem fetches_iff (s : State) (i : Instr) :
    Fetches s i ↔ s.rs ≠ .halted ∧ s.poll.closeReq = false ∧
      ∃ w, s.fetch = some w ∧ decode w = .instr i := by
  refine and_congr_right fun _ => and_congr_right fun _ => ?_
  rw [decodeBytes_pair_iff]
  constructor
  · rintro ⟨hpc, hd⟩
    exact ⟨_, s.fetch_inside hpc, hd⟩
  · rintro ⟨w, hf, hd⟩
    have hpc := s.fetch_some_inside w hf
    rw [s.fetch_inside hpc] at hf
    obtain rfl := Option.some.inj hf
    exact ⟨hpc, hd⟩

theorem step_of_fetches (s : State) (i : Instr) (h : Fetches s i) : step s = runInstr i s.poll := by
  obtain ⟨hrs, hclose, w, hf, hd⟩ := (fetches_iff s i).mp h
  rw [step_polled s hrs, afterPoll_word s.poll w hclose (by rw [s.poll_fetch, hf]), runWord_instr s.poll w i hd]

/-- Settles O7: `runInstr` is by definition `exec` followed by the end of the tick. -/
theorem stepRunsTheDecodedInstruction : Obligations.StepRunsTheDecodedInstruction := step_of_fetches

/-! ### HALTED and the close request -/

theorem run_halted (s : State) (h : s.rs = .halted) (k : Nat) : Host.Core.run Sys2Proof.core k s = .next s := by
  induction k with
  | zero => exact run_zero s
  | succ k ih => rw [run_succ k s s (step_halted s h), ih]

/-- Settles O8, by induction on the number of ticks. -/
theorem haltedIsTerminal : Obligations.HaltedIsTerminal :=
  fun s k h => ⟨step_halted s h, run_halted s h k⟩

theorem step_close (s : State) (h : s.rs ≠ .halted) (hc : s.poll.closeReq = true) :
    step s = .next s.poll.haltOnClose := by
  rw [step_polled s h, afterPoll_close s.poll hc]

theorem keepsArchitecture_haltOnClose (s : State) : KeepsArchitecture s s.haltOnClose :=
  ⟨fun _ _ => rfl, rfl, rfl, ⟨rfl, fun _ => rfl⟩, ⟨rfl, rfl⟩, fun _ _ => rfl, fun _ => rfl⟩

theorem keepsArchitecture_poll (s : State) : KeepsArchitecture s s.poll := by
  obtain ⟨_, h⟩ | ⟨_, _, _, h⟩ := s.poll_cases <;> rw [h] <;>
    exact ⟨fun _ _ => rfl, rfl, rfl, ⟨rfl, fun _ => rfl⟩, ⟨rfl, rfl⟩, fun _ _ => rfl, fun _ => rfl⟩

theorem KeepsArchitecture.trans {s t u : State} (h : KeepsArchitecture s t) (h' : KeepsArchitecture t u) :
    KeepsArchitecture s u := by
  obtain ⟨hv, hi, hpc, ⟨hsp, hstack⟩, ⟨hdt, hst⟩, hdisp, hmem⟩ := h
  obtain ⟨hv', hi', hpc', ⟨hsp', hstack'⟩, ⟨hdt', hst'⟩, hdisp', hmem'⟩ := h'
  exact ⟨fun r hr => (hv' r hr).trans (hv r hr), hi'.trans hi, hpc'.trans hpc,
    ⟨hsp'.trans hsp, fun k => (hstack' k).trans (hstack k)⟩, ⟨hdt'.trans hdt, hst'.trans hst⟩,
    fun px py => (hdisp' px py).trans (hdisp px py), fun a => (hmem' a).trans (hmem a)⟩

/-- Settles O9: the poll writes the inputs only, and the halt RS and HALT_CAUSE only. -/
theorem closeRequestHaltsFirst : Obligations.CloseRequestHaltsFirst := by
  intro s hrs hc
  obtain ⟨_, _, _, _, _, _, _, _, _, hfaultPc, hfaultWord, hovf, hunf, _, _, hframes, hparams⟩ := s.poll_frame
  exact ⟨s.poll.haltOnClose, step_close s hrs hc, rfl, rfl,
    (keepsArchitecture_poll s).trans (keepsArchitecture_haltOnClose s.poll),
    hfaultPc, hfaultWord, hovf, hunf, hframes, hparams⟩

/-! ### The first halting condition of a tick -/

theorem haltCondition_close (u : State) (h : u.closeReq = true) : haltCondition u = .closeRequested := by
  simp [haltCondition, h]

theorem haltCondition_noWord (u : State) (h : u.closeReq = false) (hf : u.fetch = none) :
    haltCondition u = .outOfRangeAddress := by
  simp [haltCondition, h, hf]

theorem haltCondition_sentinel (u : State) (h : u.closeReq = false) (hf : u.fetch = some 0) :
    haltCondition u = .sentinel := by
  simp [haltCondition, h, hf]

theorem haltCondition_unrecognized (u : State) (w : Word) (h : u.closeReq = false) (hf : u.fetch = some w)
    (h0 : w ≠ 0) (hd : decode w = .unrecognized) : haltCondition u = .unrecognizedInstruction := by
  simp only [haltCondition, h, hf, if_neg h0, hd, Bool.false_eq_true, if_false]

theorem haltCondition_instr (u : State) (w : Word) (i : Instr) (h : u.closeReq = false) (hf : u.fetch = some w)
    (hd : decode w = .instr i) : haltCondition u = ownCondition i u := by
  have h0 : w ≠ 0 := by
    rintro rfl
    rw [decode_zero] at hd
    cases hd
  simp only [haltCondition, h, hf, if_neg h0, hd, Bool.false_eq_true, if_false]

/-- The end of the tick adds nothing to a halt, and changes neither RS nor the cause. -/
theorem HaltsBy.endTick {s u : State} {c : HaltCause} (h : HaltsBy s u c) : HaltsBy s u.endTick c where
  halted hc := by
    rw [u.endTick_halted (h.halted hc).1]
    exact h.halted hc
  keeps hc := by
    rw [u.endTick_rs, u.endTick_haltCause]
    exact h.keeps hc

theorem HaltsBy.haltOnClose (s : State) : HaltsBy s s.haltOnClose .closeRequested :=
  ⟨fun _ => ⟨rfl, rfl, keepsArchitecture_haltOnClose s, rfl⟩, fun h => by cases h⟩

/-- A tick that does not run `Fx0A` halts exactly by the first condition of R146's list. -/
theorem step_haltsBy (s t : State) (hrs : s.rs ≠ .halted) (hk : ∀ x, ¬ Fetches s (.ldVxK x))
    (h : step s = .next t) : HaltsBy s.poll t (haltCondition s.poll) := by
  obtain ⟨hc, hs⟩ | ⟨hc, hf, hs⟩ | ⟨hc, hf, hs⟩ | ⟨w, hc, hf, h0, hd, hs⟩ | ⟨w, i, hc, hf, hd, hs⟩ :=
    step_cases s hrs <;> rw [hs] at h
  · obtain rfl := Host.Outcome.next.inj h
    rw [haltCondition_close _ hc]
    exact .haltOnClose _
  · obtain rfl := Host.Outcome.next.inj h
    rw [haltCondition_noWord _ hc hf]
    exact .raised _ _ (by simp)
  · obtain rfl := Host.Outcome.next.inj h
    rw [haltCondition_sentinel _ hc hf]
    exact .raised _ _ (by simp)
  · obtain rfl := Host.Outcome.next.inj h
    rw [haltCondition_unrecognized _ w hc hf h0 hd]
    exact .raised _ _ (by simp)
  · have hi : ∀ x, i ≠ .ldVxK x := by
      rintro x rfl
      exact hk x ((fetches_iff s _).mpr ⟨hrs, hc, w, s.poll_fetch ▸ hf, hd⟩)
    obtain ⟨u, hu, rfl⟩ := runInstr_next i s.poll t h
    rw [haltCondition_instr _ w i hc hf hd]
    exact (exec_haltsBy i s.poll u hi hu).endTick

/-! ### The tick of `Fx0A` -/

theorem State.poll_rs (s : State) : s.poll.rs = s.rs := by
  obtain ⟨_, h⟩ | ⟨_, _, _, h⟩ := s.poll_cases <;> rw [h]

theorem State.poll_pc (s : State) : s.poll.pc = s.pc := by
  obtain ⟨_, h⟩ | ⟨_, _, _, h⟩ := s.poll_cases <;> rw [h]

theorem State.exists_least_key (s : State) (h : ∃ k < 16, s.keys.getLsbD k = true) :
    ∃ k < 16, s.keys.getLsbD k = true ∧ ∀ j < k, s.keys.getLsbD j = false := by
  cases hf : s.firstKey with
  | none =>
    obtain ⟨k, hk, hd⟩ := h
    exact absurd hd (Bool.eq_false_iff.mp ((s.firstKey_none).mp hf k hk))
  | some k => exact ⟨k, (s.firstKey_some k).mp hf⟩

theorem step_keyWait_pressed (s t : State) (x : Reg) (hF : Fetches s (.ldVxK x)) (h : step s = .next t)
    (hk : ∃ k < 16, s.poll.keys.getLsbD k = true) :
    t.rs = .running ∧ ∃ k < 16, s.poll.keys.getLsbD k = true ∧ (t.getV x).toNat = k := by
  obtain ⟨k, hlt, hdown, hleast⟩ := s.poll.exists_least_key hk
  obtain ⟨u, hu, rfl⟩ := runInstr_next _ _ _ ((step_of_fetches s _ hF).symm.trans h)
  rw [exec_ldVxK_pressed _ _ k hlt hdown hleast] at hu
  obtain rfl := Host.Outcome.next.inj hu
  have hloaded : (BitVec.ofNat 8 k).toNat = k := by
    rw [BitVec.toNat_ofNat, Nat.mod_eq_of_lt (by omega)]
  exact ⟨by simp, k, hlt, hdown, by simpa using hloaded⟩

theorem step_keyWait_noKey (s t : State) (x : Reg) (hF : Fetches s (.ldVxK x)) (h : step s = .next t)
    (hk : ∀ k < 16, s.poll.keys.getLsbD k = false) : t.rs = .waitingForKey ∧ KeepsPc s t := by
  obtain ⟨u, hu, rfl⟩ := runInstr_next _ _ _ ((step_of_fetches s _ hF).symm.trans h)
  rw [exec_ldVxK_noKey _ _ hk] at hu
  obtain rfl := Host.Outcome.next.inj hu
  exact ⟨by simp, by simp [KeepsPc, s.poll_pc]⟩

/-- Settles O17, one row of R91's table after the other. -/
theorem runStateTransitions : Obligations.RunStateTransitions := by
  intro s t h
  refine ⟨fun hrs => ?halted, fun hrs hc => ?closed, fun x hF => ⟨?pressed, ?noKey⟩,
    fun hrs _ hk => ⟨fun hnone => ?goesOn, fun hcond => ?halts⟩⟩
  case halted =>
    obtain rfl := Host.Outcome.next.inj ((step_halted s hrs).symm.trans h)
    exact hrs
  case closed =>
    obtain rfl := Host.Outcome.next.inj ((step_close s hrs hc).symm.trans h)
    exact ⟨rfl, rfl⟩
  case pressed => exact step_keyWait_pressed s t x hF h
  case noKey => exact step_keyWait_noKey s t x hF h
  case goesOn =>
    obtain ⟨hkept, _⟩ := (step_haltsBy s t (by simp [hrs]) hk h).keeps hnone
    rw [hkept, s.poll_rs, hrs]
  case halts =>
    obtain ⟨hhalted, hcause, _⟩ := (step_haltsBy s t (by simp [hrs]) hk h).halted hcond
    exact ⟨hhalted, hcause⟩

end Sys2Proof.Machine
end

section
/-! PROOF. Control transfer of spec/41_control_transfer.md: the jump (R98). Its target decides by itself whether
the next tick finds a word (R49), and its own tick ends with the timers' decrement (R88, R89). -/

namespace Sys2Proof.Machine

/-! ### Fetch and the timers at the end of a running tick -/

theorem State.fetch_eq_none_iff (s : State) : s.fetch = none ↔ 0xFFF < s.pc.toNat + 1 := by
  refine ⟨fun hnone => ?_, s.fetch_outside⟩
  by_contra hinside
  rw [s.fetch_inside (by omega)] at hnone
  cases hnone

theorem State.endTick_dt_toNat_of_running (s : State) (h : s.rs = .running) :
    s.endTick.dt.toNat = s.dt.toNat - 1 := by
  rw [s.endTick_running h, present_dt, tickTimers_dt, timerAfter_toNat]

theorem State.endTick_st_toNat_of_running (s : State) (h : s.rs = .running)
    (hst : s.params.stDecrements = true) : s.endTick.st.toNat = s.st.toNat - 1 := by
  rw [s.endTick_running h, present_st, tickTimers_st, if_pos hst, timerAfter_toNat]

/-! ### `JP nnn` -/

theorem address_toNat (nnn : BitVec 12) : (address nnn).toNat = nnn.toNat :=
  BitVec.toNat_setWidth_of_le (by decide)

theorem exec_jp (s : State) (nnn : BitVec 12) : exec (.jp nnn) s = .next (s.setPc (address nnn)) := rfl

/-- PC holds a 12-bit target, so only the last address of memory has no second byte to fetch (R49, R98). -/
theorem State.fetch_setPc_address_eq_none_iff (s : State) (nnn : BitVec 12) :
    (s.setPc (address nnn)).fetch = none ↔ nnn.toNat = 0xFFF := by
  have hlt := nnn.isLt
  rw [State.fetch_eq_none_iff, setPc_pc, address_toNat]
  omega

/-- Settles O27: the jump is one write of PC, and the end of its tick counts the timers it left alone. -/
theorem jumpSetsPc : Obligations.JumpSetsPc := by
  intro s nnn
  refine ⟨encodeNNN_maskHigh 0x1 nnn _ rfl, s.setPc (address nnn), exec_jp s nnn, address_toNat nnn,
    onlyPc_setPc s _, s.fetch_setPc_address_eq_none_iff nnn, fun hrs => ⟨State.endTick_pc _, ?dt, ?st⟩⟩
  case dt => exact State.endTick_dt_toNat_of_running (s.setPc (address nnn)) hrs
  case st => exact State.endTick_st_toNat_of_running (s.setPc (address nnn)) hrs

end Sys2Proof.Machine
end

section
/-! PROOF. The conditional skips on registers of spec/42_skips.md (R102 to R105). Each is one `skipIf`, so one
lemma about `skipIf` serves them all. The words R104 and R105 leave unrecognized share their first nibble with one
row of R66 only, and their last nibble rules that row out. -/

namespace Sys2Proof

/-! ### Words that no row matches -/

theorem decode_unrecognized_of_no_match {w : Word} (h : ∀ t ∈ templates, w &&& t.mask ≠ t.lit) :
    decode w = .unrecognized := by
  have hnone : templates.find? (fun t => t.accepts w) = none :=
    List.find?_eq_none.mpr fun t ht haccepts => h t ht ((t.accepts_iff w).mp haccepts)
  rw [decode, decodeWith, hnone]

/-- When the literal bits `w &&& m = l` agree with a single row, a word that this row does not match is
unrecognized. -/
theorem decode_unrecognized_of_single_row {w m l rowMask rowLit : Word} (hw : w &&& m = l)
    (hsingle : ∀ t ∈ templates, l &&& t.mask = t.lit &&& m → t.mask = rowMask ∧ t.lit = rowLit)
    (hrow : w &&& rowMask ≠ rowLit) : decode w = .unrecognized := by
  refine decode_unrecognized_of_no_match fun t ht => ?_
  by_cases hagree : l &&& t.mask = t.lit &&& m
  · obtain ⟨hmask, hlit⟩ := hsingle t ht hagree
    rwa [hmask, hlit]
  · exact not_matches_other w m l t.mask t.lit hw hagree

/-- A row whose template has the last nibble 0 matches no word with another last nibble. -/
theorem not_matches_of_lastNibble_ne_zero {w lit : Word} (hlit : lit &&& 0x000F = 0) (hw : w &&& 0x000F ≠ 0) :
    w &&& 0xF00F ≠ lit := by
  rintro rfl
  rw [BitVec.and_assoc] at hlit
  exact hw hlit

theorem decode_5xy_unrecognized {w : Word} (hw : w &&& 0xF000 = 0x5000) (hlast : w &&& 0x000F ≠ 0) :
    decode w = .unrecognized :=
  decode_unrecognized_of_single_row hw (rowMask := 0xF00F) (rowLit := 0x5000) (by decide)
    (not_matches_of_lastNibble_ne_zero (by decide) hlast)

theorem decode_9xy_unrecognized {w : Word} (hw : w &&& 0xF000 = 0x9000) (hlast : w &&& 0x000F ≠ 0) :
    decode w = .unrecognized :=
  decode_unrecognized_of_single_row hw (rowMask := 0xF00F) (rowLit := 0x9000) (by decide)
    (not_matches_of_lastNibble_ne_zero (by decide) hlast)

namespace Machine

/-! ### What a skip answers (R87) -/

theorem onlyPc_skipIf (s : State) (c : Bool) : OnlyPc s (s.skipIf c) := by
  rw [State.skipIf_eq]
  exact onlyPc_setPc s _

theorem advanced_skipIf_true (s : State) : Advanced s (s.skipIf true) 4 := advanced_four s _ rfl

theorem advanced_skipIf_false (s : State) : Advanced s (s.skipIf false) 2 := advanced_two s _ rfl

/-- An instruction that means `skipIf c` skips under every condition that makes `c` true, and goes on to the next
instruction under every condition that makes it false. -/
theorem exec_skip_advances {i : Instr} {s : State} {c : Bool} (hexec : exec i s = .next (s.skipIf c))
    {skips stays : Prop} (hskips : skips → c = true) (hstays : stays → c = false) :
    ∃ t, exec i s = .next t ∧ OnlyPc s t ∧ (skips → Advanced s t 4) ∧ (stays → Advanced s t 2) := by
  refine ⟨s.skipIf c, hexec, onlyPc_skipIf s c, fun h => ?skipped, fun h => ?next⟩
  case skipped => rw [hskips h]; exact advanced_skipIf_true s
  case next => rw [hstays h]; exact advanced_skipIf_false s

/-- `skipIf` on equality, as `SE` has it. -/
theorem exec_skipEq_advances {i : Instr} {s : State} {a b : Byte}
    (hexec : exec i s = .next (s.skipIf (decide (a = b)))) :
    ∃ t, exec i s = .next t ∧ OnlyPc s t ∧ (a = b → Advanced s t 4) ∧ (a ≠ b → Advanced s t 2) :=
  exec_skip_advances hexec decide_eq_true decide_eq_false

/-- `skipIf` on inequality, as `SNE` has it. -/
theorem exec_skipNe_advances {i : Instr} {s : State} {a b : Byte}
    (hexec : exec i s = .next (s.skipIf (decide (a ≠ b)))) :
    ∃ t, exec i s = .next t ∧ OnlyPc s t ∧ (a ≠ b → Advanced s t 4) ∧ (a = b → Advanced s t 2) :=
  exec_skip_advances hexec decide_eq_true fun heq => decide_eq_false (not_not_intro heq)

/-- Settles O35: each skip is one `skipIf` on its comparison, and the unrecognized words miss the only row of their
first nibble. -/
theorem registerSkipsAdvanceByFourOrTwo : Obligations.RegisterSkipsAdvanceByFourOrTwo := by
  intro s x y kk
  refine ⟨⟨encodeXB_maskHigh 0x3 x kk _ rfl, ?seImm⟩, ⟨encodeXB_maskHigh 0x4 x kk _ rfl, ?sneImm⟩,
    ⟨encodeXY_maskEnds 0x5 x y 0x0 _ rfl, ?seReg⟩, ⟨encodeXY_maskEnds 0x9 x y 0x0 _ rfl, ?sneReg⟩,
    fun _ => decode_5xy_unrecognized, fun _ => decode_9xy_unrecognized⟩
  case seImm => exact exec_skipEq_advances rfl
  case sneImm => exact exec_skipNe_advances rfl
  case seReg => exact exec_skipEq_advances rfl
  case sneReg => exact exec_skipNe_advances rfl

end Machine

end Sys2Proof
end

section
/-! PROOF. The loads and the ALU operations without a flag of spec/43_alu.md (R107 to R112). Each writes one
register and goes on to the next instruction, so one lemma about that write serves them all; VF is written only
where it is that register. -/

namespace Sys2Proof.Machine

/-! ### What the write of one register answers -/

/-- An instruction that means one `setV` leaves the written byte in its register and goes on to the next
instruction. -/
theorem exec_setV_advances {i : Instr} {s : State} {x : Reg} {result : Byte}
    (hexec : exec i s = .next (s.setV x result).advance2) :
    ∃ t, exec i s = .next t ∧ t.getV x = result ∧ Advanced s t 2 ∧ OnlyRegs s t [x] :=
  ⟨(s.setV x result).advance2, hexec, State.setV_getV_same s x result, advanced_two s _ rfl,
    onlyRegs_setV s x result _⟩

/-- The same, for a result that is known bit by bit. -/
theorem exec_setV_advances_bits {i : Instr} {s : State} {x : Reg} {result : Byte} {bits : Nat → Bool}
    (hexec : exec i s = .next (s.setV x result).advance2) (hbits : ∀ k, result.getLsbD k = bits k) :
    ∃ t, exec i s = .next t ∧ (∀ k < 8, (t.getV x).getLsbD k = bits k) ∧ Advanced s t 2 ∧
      OnlyRegs s t [x] := by
  obtain ⟨t, hnext, hresult, hframe⟩ := exec_setV_advances hexec
  exact ⟨t, hnext, fun k _ => hresult ▸ hbits k, hframe⟩

/-! ### The loads, `ADD Vx, kk` and the logic operations -/

/-- Settles O37: each is one `setV`, and the sum of bytes is taken modulo 256. -/
theorem loadsAndImmediateAdd : Obligations.LoadsAndImmediateAdd := by
  intro s x y kk
  refine ⟨⟨encodeXB_maskHigh 0x6 x kk _ rfl, ?ldImm⟩, ⟨encodeXB_maskHigh 0x7 x kk _ rfl, ?addImm⟩,
    ⟨encodeXY_maskEnds 0x8 x y 0x0 _ rfl, ?ldReg⟩⟩
  case ldImm => exact exec_setV_advances rfl
  case addImm =>
    obtain ⟨t, hnext, hsum, hframe⟩ := exec_setV_advances (i := .addImm x kk) (s := s) rfl
    exact ⟨t, hnext, hsum ▸ BitVec.toNat_add (s.getV x) kk, hframe⟩
  case ldReg => exact exec_setV_advances rfl

/-- Settles O38: each is one `setV` of the bitwise operation on the two registers. -/
theorem logicOperationsBitByBit : Obligations.LogicOperationsBitByBit := by
  intro s x y
  refine ⟨⟨encodeXY_maskEnds 0x8 x y 0x1 _ rfl, ?orReg⟩, ⟨encodeXY_maskEnds 0x8 x y 0x2 _ rfl, ?andReg⟩,
    ⟨encodeXY_maskEnds 0x8 x y 0x3 _ rfl, ?xorReg⟩⟩
  case orReg => exact exec_setV_advances_bits rfl fun _ => BitVec.getLsbD_or
  case andReg => exact exec_setV_advances_bits rfl fun _ => BitVec.getLsbD_and
  case xorReg => exact exec_setV_advances_bits rfl fun _ => BitVec.getLsbD_xor

end Sys2Proof.Machine
end

section
/-! PROOF. The instructions of spec/44_index_memory.md that write the index register (R119 to R121). Each writes I
and goes on to the next instruction, so one lemma about that write serves them all; what is left is the number each
of the three addresses is. -/

namespace Sys2Proof.Machine

/-! ### The addresses as numbers -/

/-- The sum is reduced modulo 4096 (R120), so its 16 bits lose nothing of it. -/
theorem indexPlus_toNat (s : State) (x : Reg) :
    (indexPlus s x).toNat = (s.i.toNat + (s.getV x).toNat) % 4096 :=
  (BitVec.toNat_ofNat _ _).trans (Nat.mod_eq_of_lt (by omega))

/-- A glyph starts at most at 15 * 5 (R121), so 16 bits hold its address. -/
theorem glyphAddr_toNat (s : State) (x : Reg) : (glyphAddr s x).toNat = (s.getV x).toNat % 16 * 5 :=
  (BitVec.toNat_ofNat _ _).trans (Nat.mod_eq_of_lt (by omega))

/-! ### What the write of I answers -/

/-- An instruction that means one `setI` leaves the written address in I and goes on to the next instruction. -/
theorem exec_setI_advances {i : Instr} {s : State} {a : Word} {n : Nat}
    (hexec : exec i s = .next (s.setI a).advance2) (hvalue : a.toNat = n) :
    ∃ t, exec i s = .next t ∧ t.i.toNat = n ∧ Advanced s t 2 ∧ OnlyIndex s t :=
  ⟨(s.setI a).advance2, hexec, hvalue, advanced_two s _ rfl, onlyIndex_setI s a _⟩

/-- Settles O43: each is one `setI`, of an address known as a number. -/
theorem indexLoadsAndAdd : Obligations.IndexLoadsAndAdd := by
  intro s x nnn
  refine ⟨⟨encodeNNN_maskHigh 0xA nnn _ rfl, ?ldI⟩, ⟨encodeXB_maskHighLow 0xF x 0x1E _ rfl, ?addI⟩,
    ⟨encodeXB_maskHighLow 0xF x 0x29 _ rfl, ?ldIFont⟩⟩
  case ldI => exact exec_setI_advances rfl (address_toNat nnn)
  case addI => exact exec_setI_advances rfl (indexPlus_toNat s x)
  case ldIFont => exact exec_setI_advances rfl (glyphAddr_toNat s x)

end Sys2Proof.Machine
end

section
/-! PROOF. The clearing of the display in spec/45_display.md (R128): one write of the whole display surface, so what
stood in the grid before plays no part. -/

namespace Sys2Proof.Machine

/-- A write of the display and PC leaves everything else alone. -/
theorem onlyDisplay_setDisp (s : State) (d : Display) (a : Word) : OnlyDisplay s ((s.setDisp d).setPc a) [] :=
  ⟨fun _ _ => rfl, rfl, ⟨rfl, fun _ => rfl⟩, ⟨rfl, rfl⟩, ⟨rfl, rfl, rfl, rfl, rfl, rfl⟩, fun _ => rfl,
    ⟨rfl, rfl, rfl, rfl, rfl, rfl, rfl⟩⟩

theorem exec_cls (s : State) : exec .cls s = .next (s.setDisp clearedDisplay).advance2 := rfl

theorem cls_hasTemplate : HasTemplate .cls 0xFFFF 0x00E0 := by
  unfold HasTemplate
  decide

/-- Settles O49: the display written is the cleared one, whatever it replaces. -/
theorem clearUnsetsEveryPixel : Obligations.ClearUnsetsEveryPixel := by
  intro s
  refine ⟨cls_hasTemplate, (s.setDisp clearedDisplay).advance2, exec_cls s, ?pixels, ?pc, ?frame⟩
  case pixels => exact clearedDisplay_pixel
  case pc => exact advanced_two s _ rfl
  case frame => exact onlyDisplay_setDisp s clearedDisplay _

end Sys2Proof.Machine
end

section
/-! PROOF. The key skips and the delay timer of spec/46_timers_input.md (R131 to R134). Each skip is one `skipIf` on
one bit of the tick's key sample. Each transfer is one write, and the end of a running tick counts down the DT that
this write leaves. -/

namespace Sys2Proof.Machine

/-! ### The key skips -/

theorem exec_skp (s : State) (x : Reg) :
    exec (.skp x) s = .next (s.skipIf (s.keys.getLsbD ((s.getV x).toNat % 16))) := rfl

theorem exec_sknp (s : State) (x : Reg) :
    exec (.sknp x) s = .next (s.skipIf (!s.keys.getLsbD ((s.getV x).toNat % 16))) := rfl

/-- Settles O36: the condition of each skip is the sampled key, or its negation. -/
theorem keySkipsTestTheSampledKey : Obligations.KeySkipsTestTheSampledKey := by
  intro s x
  refine ⟨⟨encodeXB_maskHighLow 0xE x 0x9E _ rfl, ?skp⟩, ⟨encodeXB_maskHighLow 0xE x 0xA1 _ rfl, ?sknp⟩⟩
  case skp => exact exec_skip_advances (exec_skp s x) id id
  case sknp => exact exec_skip_advances (exec_sknp s x) (congrArg not) (congrArg not)

/-! ### The delay timer -/

theorem exec_ldVxDt (s : State) (x : Reg) : exec (.ldVxDt x) s = .next (s.setV x s.dt).advance2 := rfl

theorem exec_ldDtVx (s : State) (x : Reg) : exec (.ldDtVx x) s = .next (s.setDt (s.getV x)).advance2 := rfl

/-- A write of DT and PC leaves all but the timers and PC alone. -/
theorem onlyTimers_setDt (s : State) (d : Byte) (a : Word) : OnlyTimers s ((s.setDt d).setPc a) :=
  ⟨fun _ _ => rfl, rfl, ⟨rfl, fun _ => rfl⟩, ⟨rfl, rfl, rfl, rfl, rfl, rfl⟩, fun _ _ => rfl, fun _ => rfl,
    ⟨rfl, rfl, rfl, rfl, rfl, rfl, rfl⟩⟩

theorem ldVxDt_transfers (s : State) (x : Reg) :
    ∃ t, exec (.ldVxDt x) s = .next t ∧ t.getV x = s.dt ∧ Advanced s t 2 ∧ OnlyRegs s t [x] ∧
      (s.rs = .running → t.endTick.getV x = s.dt ∧ t.endTick.dt.toNat = s.dt.toNat - 1) := by
  have hread : (s.setV x s.dt).advance2.getV x = s.dt := State.setV_getV_same s x s.dt
  refine ⟨(s.setV x s.dt).advance2, exec_ldVxDt s x, hread, advanced_two s _ rfl, onlyRegs_setV s x s.dt _,
    fun hrs => ⟨?kept, ?counted⟩⟩
  case kept => rw [State.endTick_getV, hread]
  case counted => exact State.endTick_dt_toNat_of_running (s.setV x s.dt).advance2 hrs

theorem ldDtVx_transfers (s : State) (x : Reg) :
    ∃ t, exec (.ldDtVx x) s = .next t ∧ t.dt = s.getV x ∧ t.st = s.st ∧ Advanced s t 2 ∧ OnlyTimers s t ∧
      (s.rs = .running → t.endTick.dt.toNat = (s.getV x).toNat - 1) :=
  ⟨(s.setDt (s.getV x)).advance2, exec_ldDtVx s x, rfl, rfl, advanced_two s _ rfl,
    onlyTimers_setDt s (s.getV x) _, State.endTick_dt_toNat_of_running (s.setDt (s.getV x)).advance2⟩

/-- Settles O52: the read takes DT, and the write sets it, before the tick's end counts it down. -/
theorem delayTimerTransfers : Obligations.DelayTimerTransfers := fun s x =>
  ⟨⟨encodeXB_maskHighLow 0xF x 0x07 _ rfl, ldVxDt_transfers s x⟩,
    ⟨encodeXB_maskHighLow 0xF x 0x15 _ rfl, ldDtVx_transfers s x⟩⟩

end Sys2Proof.Machine
end

section
/-! PROOF. Decode and encode of spec/30_encoding.md are inverse to each other (R64 to R67). A word is the number made
of its nibbles, so each format's round trip is arithmetic on that number, and the 34 rows only say which format they
have. -/

namespace Sys2Proof

/-! ### The operands of an encoded word -/

@[simp] theorem fieldX_encodeXB (op : BitVec 4) (x : Reg) (low : Byte) : fieldX (encodeXB op x low) = x := by
  have := low.isLt
  refine Fin.ext ?_
  rw [fieldX_val, encodeXB_toNat]
  omega

@[simp] theorem fieldKk_encodeXB (op : BitVec 4) (x : Reg) (low : Byte) : fieldKk (encodeXB op x low) = low := by
  have := low.isLt
  refine BitVec.eq_of_toNat_eq ?_
  rw [fieldKk_toNat, encodeXB_toNat]
  omega

@[simp] theorem fieldX_encodeXY (op : BitVec 4) (x y : Reg) (last : BitVec 4) :
    fieldX (encodeXY op x y last) = x := by
  have := last.isLt
  refine Fin.ext ?_
  rw [fieldX_val, encodeXY_toNat]
  omega

@[simp] theorem fieldY_encodeXY (op : BitVec 4) (x y : Reg) (last : BitVec 4) :
    fieldY (encodeXY op x y last) = y := by
  have := last.isLt
  refine Fin.ext ?_
  rw [fieldY_val, encodeXY_toNat]
  omega

@[simp] theorem nibble_toNat (n : Fin 16) : (nibble n).toNat = n.val := rfl

@[simp] theorem fieldN_encodeXY (op : BitVec 4) (x y : Reg) (n : Fin 16) :
    fieldN (encodeXY op x y (nibble n)) = n := by
  refine Fin.ext ?_
  rw [fieldN_val, encodeXY_toNat, nibble_toNat]
  omega

@[simp] theorem fieldNnn_encodeNNN (op : BitVec 4) (nnn : BitVec 12) : fieldNnn (encodeNNN op nnn) = nnn := by
  have := nnn.isLt
  refine BitVec.eq_of_toNat_eq ?_
  rw [fieldNnn_toNat, encodeNNN_toNat]
  omega

/-! ### Decoding an encoded instruction, format by format -/

theorem decode_encodeXB {op : BitVec 4} {lit : Word} {build : Reg → Byte → Instr}
    (hrow : ⟨0xF000, lit, fun w => build (fieldX w) (fieldKk w)⟩ ∈ templates) (hlit : lit = op ++ 0#4 ++ 0#8)
    (x : Reg) (kk : Byte) : decode (encodeXB op x kk) = .instr (build x kk) := by
  simpa using decode_of_matches hrow (encodeXB_maskHigh op x kk lit hlit)

theorem decode_encodeX {op : BitVec 4} {low : Byte} {lit : Word} {build : Reg → Instr}
    (hrow : ⟨0xF0FF, lit, fun w => build (fieldX w)⟩ ∈ templates) (hlit : lit = op ++ 0#4 ++ low)
    (x : Reg) : decode (encodeXB op x low) = .instr (build x) := by
  simpa using decode_of_matches hrow (encodeXB_maskHighLow op x low lit hlit)

theorem decode_encodeXY {op last : BitVec 4} {lit : Word} {build : Reg → Reg → Instr}
    (hrow : ⟨0xF00F, lit, fun w => build (fieldX w) (fieldY w)⟩ ∈ templates)
    (hlit : lit = op ++ 0#4 ++ 0#4 ++ last) (x y : Reg) :
    decode (encodeXY op x y last) = .instr (build x y) := by
  simpa using decode_of_matches hrow (encodeXY_maskEnds op x y last lit hlit)

theorem decode_encodeNNN {op : BitVec 4} {lit : Word} {build : BitVec 12 → Instr}
    (hrow : ⟨0xF000, lit, fun w => build (fieldNnn w)⟩ ∈ templates) (hlit : lit = op ++ 0#12) (nnn : BitVec 12) :
    decode (encodeNNN op nnn) = .instr (build nnn) := by
  simpa using decode_of_matches hrow (encodeNNN_maskHigh op nnn lit hlit)

theorem decode_encode_drw (x y : Reg) (n : Fin 16) : decode (encode (.drw x y n)) = .instr (.drw x y n) := by
  have hrow : ⟨0xF000, 0xD000, fun w => .drw (fieldX w) (fieldY w) (fieldN w)⟩ ∈ templates := by simp [templates]
  simpa [encode] using decode_of_matches hrow (encodeXY_maskHigh 0xD x y (nibble n) 0xD000 rfl)

theorem decode_encode (i : Instr) : decode (encode i) = .instr i := by
  cases i with
  | cls => decide
  | ret => decide
  | jp nnn => exact decode_encodeNNN (lit := 0x1000) (by simp [templates]) rfl nnn
  | call nnn => exact decode_encodeNNN (lit := 0x2000) (by simp [templates]) rfl nnn
  | ldI nnn => exact decode_encodeNNN (lit := 0xA000) (by simp [templates]) rfl nnn
  | jpV0 nnn => exact decode_encodeNNN (lit := 0xB000) (by simp [templates]) rfl nnn
  | seImm x kk => exact decode_encodeXB (lit := 0x3000) (by simp [templates]) rfl x kk
  | sneImm x kk => exact decode_encodeXB (lit := 0x4000) (by simp [templates]) rfl x kk
  | ldImm x kk => exact decode_encodeXB (lit := 0x6000) (by simp [templates]) rfl x kk
  | addImm x kk => exact decode_encodeXB (lit := 0x7000) (by simp [templates]) rfl x kk
  | rnd x kk => exact decode_encodeXB (lit := 0xC000) (by simp [templates]) rfl x kk
  | seReg x y => exact decode_encodeXY (lit := 0x5000) (by simp [templates]) rfl x y
  | ldReg x y => exact decode_encodeXY (lit := 0x8000) (by simp [templates]) rfl x y
  | orReg x y => exact decode_encodeXY (lit := 0x8001) (by simp [templates]) rfl x y
  | andReg x y => exact decode_encodeXY (lit := 0x8002) (by simp [templates]) rfl x y
  | xorReg x y => exact decode_encodeXY (lit := 0x8003) (by simp [templates]) rfl x y
  | addReg x y => exact decode_encodeXY (lit := 0x8004) (by simp [templates]) rfl x y
  | subReg x y => exact decode_encodeXY (lit := 0x8005) (by simp [templates]) rfl x y
  | shr x y => exact decode_encodeXY (lit := 0x8006) (by simp [templates]) rfl x y
  | subn x y => exact decode_encodeXY (lit := 0x8007) (by simp [templates]) rfl x y
  | shl x y => exact decode_encodeXY (lit := 0x800E) (by simp [templates]) rfl x y
  | sneReg x y => exact decode_encodeXY (lit := 0x9000) (by simp [templates]) rfl x y
  | drw x y n => exact decode_encode_drw x y n
  | skp x => exact decode_encodeX (lit := 0xE09E) (by simp [templates]) rfl x
  | sknp x => exact decode_encodeX (lit := 0xE0A1) (by simp [templates]) rfl x
  | ldVxDt x => exact decode_encodeX (lit := 0xF007) (by simp [templates]) rfl x
  | ldVxK x => exact decode_encodeX (lit := 0xF00A) (by simp [templates]) rfl x
  | ldDtVx x => exact decode_encodeX (lit := 0xF015) (by simp [templates]) rfl x
  | ldStVx x => exact decode_encodeX (lit := 0xF018) (by simp [templates]) rfl x
  | addI x => exact decode_encodeX (lit := 0xF01E) (by simp [templates]) rfl x
  | ldIFont x => exact decode_encodeX (lit := 0xF029) (by simp [templates]) rfl x
  | ldBcd x => exact decode_encodeX (lit := 0xF033) (by simp [templates]) rfl x
  | stRegs x => exact decode_encodeX (lit := 0xF055) (by simp [templates]) rfl x
  | ldRegs x => exact decode_encodeX (lit := 0xF065) (by simp [templates]) rfl x

theorem decodeBytes_word (w : Word) (i : Instr) (rest : List Byte) (h : decode w = .instr i) :
    decodeBytes (highByte w :: lowByte w :: rest) = .instr i rest := by
  simp [decodeBytes, Machine.wordOfBytes_highByte_lowByte, h]

/-- Settles O2: each format's operands are read back from the number its word is. -/
theorem decodeOfEncodeIsTheInstruction : Obligations.DecodeOfEncodeIsTheInstruction :=
  fun i rest _ => ⟨decode_encode i, decodeBytes_word (encode i) i rest (decode_encode i)⟩

/-! ### The literal bits of a word as a number

Every word has the form of each format, so the laws of the encoder say what each mask keeps of it. -/

theorem exists_encodeXY (w : Word) : ∃ op x y last, w = encodeXY op x y last := by
  have := w.isLt
  refine ⟨w.extractLsb' 12 4, fieldX w, fieldY w, w.extractLsb' 0 4, BitVec.eq_of_toNat_eq ?_⟩
  rw [encodeXY_toNat, fieldX_val, fieldY_val, BitVec.extractLsb'_toNat, BitVec.extractLsb'_toNat,
    Nat.shiftRight_eq_div_pow, Nat.shiftRight_eq_div_pow]
  omega

theorem exists_encodeXB (w : Word) : ∃ op x low, w = encodeXB op x low := by
  have := w.isLt
  refine ⟨w.extractLsb' 12 4, fieldX w, fieldKk w, BitVec.eq_of_toNat_eq ?_⟩
  rw [encodeXB_toNat, fieldX_val, fieldKk_toNat, BitVec.extractLsb'_toNat, Nat.shiftRight_eq_div_pow]
  omega

/-- The mask of the formats NNN, XKK and XYN keeps the first nibble. -/
theorem maskHigh_toNat (w : Word) : (w &&& 0xF000).toNat = w.toNat / 4096 * 4096 := by
  obtain ⟨op, x, low, rfl⟩ := exists_encodeXB w
  have := low.isLt
  rw [encodeXB_maskHigh op x low (encodeXB op 0 0#8) rfl, encodeXB_toNat, encodeXB_toNat, BitVec.toNat_zero,
    Fin.val_zero]
  omega

/-- The mask of the format XY keeps the first and the last nibble. -/
theorem maskEnds_toNat (w : Word) : (w &&& 0xF00F).toNat = w.toNat / 4096 * 4096 + w.toNat % 16 := by
  obtain ⟨op, x, y, last, rfl⟩ := exists_encodeXY w
  have := last.isLt
  rw [encodeXY_maskEnds op x y last (encodeXY op 0 0 last) rfl, encodeXY_toNat, encodeXY_toNat, Fin.val_zero]
  omega

/-- The mask of the format X keeps the first nibble and the low byte. -/
theorem maskHighLow_toNat (w : Word) : (w &&& 0xF0FF).toNat = w.toNat / 4096 * 4096 + w.toNat % 256 := by
  obtain ⟨op, x, low, rfl⟩ := exists_encodeXB w
  have := low.isLt
  rw [encodeXB_maskHighLow op x low (encodeXB op 0 low) rfl, encodeXB_toNat, encodeXB_toNat, Fin.val_zero]
  omega

theorem maskHigh_eq_iff {lit : Word} (hlit : lit.toNat % 4096 = 0) (w : Word) :
    w &&& 0xF000 = lit ↔ w.toNat / 4096 = lit.toNat / 4096 := by
  rw [← BitVec.toNat_inj, maskHigh_toNat]
  omega

theorem maskEnds_eq_iff {lit : Word} (hlit : lit.toNat / 16 % 256 = 0) (w : Word) :
    w &&& 0xF00F = lit ↔ w.toNat / 4096 = lit.toNat / 4096 ∧ w.toNat % 16 = lit.toNat % 16 := by
  rw [← BitVec.toNat_inj, maskEnds_toNat]
  omega

theorem maskHighLow_eq_iff {lit : Word} (hlit : lit.toNat / 256 % 16 = 0) (w : Word) :
    w &&& 0xF0FF = lit ↔ w.toNat / 4096 = lit.toNat / 4096 ∧ w.toNat % 256 = lit.toNat % 256 := by
  rw [← BitVec.toNat_inj, maskHighLow_toNat]
  omega

/-! ### Encoding a decoded word, format by format -/

theorem encodeXB_fields {op : BitVec 4} {lit w : Word} (hw : w &&& 0xF000 = lit)
    (hlit : lit.toNat = op.toNat * 4096) : encodeXB op (fieldX w) (fieldKk w) = w := by
  rw [maskHigh_eq_iff (by omega)] at hw
  refine BitVec.eq_of_toNat_eq ?_
  rw [encodeXB_toNat, fieldX_val, fieldKk_toNat]
  omega

theorem encodeX_fields {op : BitVec 4} {low : Byte} {lit w : Word} (hw : w &&& 0xF0FF = lit)
    (hlit : lit.toNat = op.toNat * 4096 + low.toNat) : encodeXB op (fieldX w) low = w := by
  have := low.isLt
  rw [maskHighLow_eq_iff (by omega)] at hw
  refine BitVec.eq_of_toNat_eq ?_
  rw [encodeXB_toNat, fieldX_val]
  omega

theorem encodeXY_fields {op last : BitVec 4} {lit w : Word} (hw : w &&& 0xF00F = lit)
    (hlit : lit.toNat = op.toNat * 4096 + last.toNat) : encodeXY op (fieldX w) (fieldY w) last = w := by
  have := last.isLt
  rw [maskEnds_eq_iff (by omega)] at hw
  refine BitVec.eq_of_toNat_eq ?_
  rw [encodeXY_toNat, fieldX_val, fieldY_val]
  omega

theorem encodeXYN_fields {op : BitVec 4} {lit w : Word} (hw : w &&& 0xF000 = lit)
    (hlit : lit.toNat = op.toNat * 4096) : encodeXY op (fieldX w) (fieldY w) (nibble (fieldN w)) = w := by
  rw [maskHigh_eq_iff (by omega)] at hw
  refine BitVec.eq_of_toNat_eq ?_
  rw [encodeXY_toNat, fieldX_val, fieldY_val, nibble_toNat, fieldN_val]
  omega

theorem encodeNNN_fields {op : BitVec 4} {lit w : Word} (hw : w &&& 0xF000 = lit)
    (hlit : lit.toNat = op.toNat * 4096) : encodeNNN op (fieldNnn w) = w := by
  rw [maskHigh_eq_iff (by omega)] at hw
  refine BitVec.eq_of_toNat_eq ?_
  rw [encodeNNN_toNat, fieldNnn_toNat]
  omega

/-- A row reads no operand bit twice and drops none. -/
def Template.RoundTrips (t : Template) : Prop := ∀ w : Word, w &&& t.mask = t.lit → encode (t.build w) = w

theorem templates_roundTrip : ∀ t ∈ templates, t.RoundTrips := by
  simp only [templates, List.cons_append, List.nil_append, List.forall_mem_cons, List.not_mem_nil, false_implies,
    implies_true, and_true]
  exact ⟨fun _ hw => hw.symm.trans BitVec.and_allOnes, fun _ hw => hw.symm.trans BitVec.and_allOnes,
    fun _ hw => encodeNNN_fields hw rfl, fun _ hw => encodeNNN_fields hw rfl, fun _ hw => encodeXB_fields hw rfl,
    fun _ hw => encodeXB_fields hw rfl, fun _ hw => encodeXY_fields hw rfl, fun _ hw => encodeXB_fields hw rfl,
    fun _ hw => encodeXB_fields hw rfl, fun _ hw => encodeXY_fields hw rfl, fun _ hw => encodeXY_fields hw rfl,
    fun _ hw => encodeXY_fields hw rfl, fun _ hw => encodeXY_fields hw rfl, fun _ hw => encodeXY_fields hw rfl,
    fun _ hw => encodeXY_fields hw rfl, fun _ hw => encodeXY_fields hw rfl, fun _ hw => encodeXY_fields hw rfl,
    fun _ hw => encodeXY_fields hw rfl, fun _ hw => encodeXY_fields hw rfl, fun _ hw => encodeNNN_fields hw rfl,
    fun _ hw => encodeNNN_fields hw rfl, fun _ hw => encodeXB_fields hw rfl, fun _ hw => encodeXYN_fields hw rfl,
    fun _ hw => encodeX_fields hw rfl, fun _ hw => encodeX_fields hw rfl, fun _ hw => encodeX_fields hw rfl,
    fun _ hw => encodeX_fields hw rfl, fun _ hw => encodeX_fields hw rfl, fun _ hw => encodeX_fields hw rfl,
    fun _ hw => encodeX_fields hw rfl, fun _ hw => encodeX_fields hw rfl, fun _ hw => encodeX_fields hw rfl,
    fun _ hw => encodeX_fields hw rfl, fun _ hw => encodeX_fields hw rfl⟩

/-- A decoded word was read by a row it matches. -/
theorem exists_row_of_decode {w : Word} {i : Instr} (h : decode w = .instr i) :
    ∃ t ∈ templates, w &&& t.mask = t.lit ∧ i = t.build w := by
  by_cases hrow : ∃ t ∈ templates, w &&& t.mask = t.lit
  · obtain ⟨t, ht, hw⟩ := hrow
    rw [decode_of_matches ht hw, Decoded.instr.injEq] at h
    exact ⟨t, ht, hw, h.symm⟩
  · rw [decode_unrecognized_of_no_match fun t ht hw => hrow ⟨t, ht, hw⟩] at h
    cases h

theorem wellFormed_all (i : Instr) : i.wellFormed = true := by
  cases i with
  | cls => exact Laws.WellFormedInstr.cls
  | ret => exact Laws.WellFormedInstr.ret
  | jp nnn | call nnn | ldI nnn | jpV0 nnn => exact Laws.WellFormedInstr.fits_NNN nnn
  | seImm x kk | sneImm x kk | ldImm x kk | addImm x kk | rnd x kk => exact Laws.WellFormedInstr.fits_XKK x kk
  | seReg x y | sneReg x y | ldReg x y | orReg x y | andReg x y | xorReg x y | addReg x y | subReg x y | shr x y
  | subn x y | shl x y => exact Laws.WellFormedInstr.fits_XY x y
  | drw x y n => exact Laws.WellFormedInstr.fits_XYN x y n
  | skp x | sknp x | ldVxDt x | ldVxK x | ldDtVx x | ldStVx x | addI x | ldIFont x | ldBcd x | stRegs x | ldRegs x =>
    exact Laws.WellFormedInstr.fits_X x

/-- Settles O3: the row that read the word gives it back. -/
theorem encodeOfDecodeIsTheWord : Obligations.EncodeOfDecodeIsTheWord := by
  intro w i h
  obtain ⟨t, ht, hw, rfl⟩ := exists_row_of_decode h
  exact ⟨templates_roundTrip t ht w hw, wellFormed_all _⟩

/-! ### Disjoint rows, in any order (R68) -/

theorem decodeWith_unrecognized_of_no_match {ts : List Template} {w : Word} (h : ∀ t ∈ ts, ¬ t.accepts w = true) :
    decodeWith ts w = .unrecognized := by
  rw [decodeWith, List.find?_eq_none.mpr h]

/-- Exclusive rows decode alike in every order: the one that accepts the word decides, or none does. -/
theorem decodeWith_perm {ts us : List Template} (hperm : ts.Perm us) (hus : us.Pairwise Template.Exclusive)
    (w : Word) : decodeWith ts w = decodeWith us w := by
  have hts : ts.Pairwise Template.Exclusive :=
    (hperm.pairwise_iff fun h w hw => h w hw.symm).mpr hus
  by_cases hrow : ∃ t ∈ us, t.accepts w = true
  · obtain ⟨t, ht, hw⟩ := hrow
    rw [decodeWith_of_accepts hus ht hw, decodeWith_of_accepts hts (hperm.mem_iff.mpr ht) hw]
  · rw [decodeWith_unrecognized_of_no_match fun t ht hw => hrow ⟨t, ht, hw⟩,
      decodeWith_unrecognized_of_no_match fun t ht hw => hrow ⟨t, hperm.mem_iff.mp ht, hw⟩]

/-- Settles O5: exclusive rows decode alike in every order. -/
theorem templatesDisjointInAnyOrder : Obligations.TemplatesDisjointInAnyOrder :=
  ⟨rfl, templates_pairwise_exclusive, fun _ hperm w => decodeWith_perm hperm templates_pairwise_exclusive w⟩

/-! ### The unrecognized words (R71) -/

theorem decode_unrecognized_iff (w : Word) :
    decode w = .unrecognized ↔ ∀ t ∈ templates, w &&& t.mask ≠ t.lit := by
  refine ⟨fun h t ht hw => ?_, decode_unrecognized_of_no_match⟩
  rw [decode_of_matches ht hw] at h
  cases h

/-- Settles O6: the masks of the 34 rows are conditions on the first nibble and the last nibble or byte, which
are compared one first nibble after the other. -/
theorem unrecognizedWordsAreThoseListed : Obligations.UnrecognizedWordsAreThoseListed := by
  refine ⟨Machine.decode_zero, fun w _ => ?_⟩
  have hall : w &&& 0xFFFF = w := BitVec.and_allOnes
  have hfirst : w.toNat / 4096 < 16 := Nat.div_lt_of_lt_mul w.isLt
  have hlast : w.toNat % 16 < 16 := Nat.mod_lt _ (by decide)
  have hcls : w = 0x00E0 → w.toNat / 4096 = 0 := by rintro rfl; rfl
  have hret : w = 0x00EE → w.toNat / 4096 = 0 := by rintro rfl; rfl
  rw [decode_unrecognized_iff]
  simp (disch := decide) only [templates, List.cons_append, List.nil_append, List.forall_mem_cons,
    List.not_mem_nil, false_implies, implies_true, and_true, Ne, hall, maskHigh_eq_iff, maskEnds_eq_iff,
    maskHighLow_eq_iff, BitVec.reduceToNat, Nat.reduceDiv, Nat.reduceMod]
  clear hall
  generalize w.toNat / 4096 = first, w.toNat % 16 = last, w.toNat % 256 = low at *
  interval_cases first <;> simp_all
  -- first nibble 8: the last nibbles of its rows against the last nibbles listed
  omega

/-- Settles O1: each is one run of the decoder. -/
theorem sampleWordsDecode : Obligations.SampleWordsDecode := by
  unfold Obligations.SampleWordsDecode
  decide

end Sys2Proof
end

section
/-! PROOF. The invariants of spec/10_state.md and spec/40_step_loop.md R92. Each shape that `exec_effect` gives the
next state keeps the state invariant, and so do the poll, the halts and the end of a tick. Under it the stack has
the cell that a call or a return needs, so no run ends in a fault. -/

namespace Sys2Proof.Machine

/-! ### The parts of a tick keep the invariant of the state -/

theorem State.Inv.poll {s : State} (h : s.Inv) : s.poll.Inv := by
  obtain ⟨_, hp⟩ | ⟨_, _, _, hp⟩ := s.poll_cases <;> rw [hp] <;> exact { h with }

theorem State.Inv.endTick {s : State} (h : s.Inv) : s.endTick.Inv := by
  rw [s.endTick_eq]
  exact { h with }

theorem State.Inv.haltOnClose {s : State} (h : s.Inv) : s.haltOnClose.Inv :=
  { h with halts := by simp, overflow := by simp, underflow := by simp }

theorem State.Inv.raiseHalt {s : State} (h : s.Inv) {c : HaltCause} (w : Word) (hc : c ≠ .none)
    (hovf : c = .stackOverflow → s.diagOvf = true) (hunf : c = .stackUnderflow → s.diagUnf = true) :
    (s.raiseHalt c w).Inv :=
  { h with halts := by simpa using hc, overflow := hovf, underflow := hunf }

theorem State.Inv.reportOverflow {s : State} (h : s.Inv) (w : Word) : (s.reportOverflow w).Inv :=
  { h with overflow := fun _ => rfl }

theorem State.Inv.reportUnderflow {s : State} (h : s.Inv) (w : Word) : (s.reportUnderflow w).Inv :=
  { h with underflow := fun _ => rfl }

theorem State.Inv.setPc {s : State} (h : s.Inv) {a : Word} (ha : a.toNat ≤ 0x10FE) : (s.setPc a).Inv :=
  { h with pcBound := ha }

theorem State.Inv.afterReport {s : State} (h : s.Inv) {c : HaltCause} (w : Word) (hpc : s.pc.toNat ≤ 0xFFE)
    (hc : c ≠ .none) (hovf : c = .stackOverflow → s.diagOvf = true) (hunf : c = .stackUnderflow → s.diagUnf = true) :
    (s.afterReport c w).Inv := by
  cases hp : s.params.stackFaultPolicy with
  | halt => rw [s.afterReport_halt c w hp]; exact h.raiseHalt w hc hovf hunf
  | continues => rw [s.afterReport_continues c w hp]; exact h.setPc (by bv_omega)

theorem State.Inv.push {s : State} (h : s.Inv) {a : Word} (ha : a.toNat ≤ 0x1000) (hsp : s.sp ≠ 15)
    (hlt : s.sp.toNat < 16) : (s.push a hlt).Inv where
  index := h.index
  pcBound := h.pcBound
  spBound := by
    rw [push_sp]
    bv_omega
  returns k hk := by
    rw [push_sp] at hk
    rw [push_stack, Vector.getElem_set]
    split
    · exact ha
    · exact h.returns k (by bv_omega)
  memory := h.memory
  halts := h.halts
  overflow := h.overflow
  underflow := h.underflow

theorem State.Inv.dropTop {s : State} (h : s.Inv) (hsp : s.sp ≠ 0) : s.dropTop.Inv :=
  { h with
    spBound := by have := h.spBound; rw [dropTop_sp]; bv_omega
    returns := fun k hk => h.returns k (by rw [dropTop_sp] at hk; bv_omega) }

theorem State.Inv.cause_eq_none {s : State} (h : s.Inv) (hrs : s.rs ≠ .halted) : s.haltCause = .none :=
  by_contra fun hc => hrs (h.halts.mpr hc)

theorem State.Inv.setRs {s : State} (h : s.Inv) (hrs : s.rs ≠ .halted) {r : RunState} (hr : r ≠ .halted) :
    (s.setRs r).Inv :=
  { h with halts := by simp [hr, h.cause_eq_none hrs] }

/-- Whatever an instruction does where it can be fetched, the invariant holds after it. -/
theorem Effect.keeps_inv {i : Instr} {s t : State} (he : Effect i s t) (h : s.Inv) (hpc : s.pc.toNat ≤ 0xFFE)
    (hrs : s.rs ≠ .halted) : t.Inv := by
  have hnext : (s.pc + 2).toNat ≤ 0x1000 := by bv_omega
  have hpcNext : (s.pc + 2).toNat ≤ 0x10FE := by omega
  cases he with
  | registers v a ha =>
    have hregs : (s.setRegs v).Inv := { h with }
    refine hregs.setPc ?_
    obtain rfl | rfl | ha := ha
    · exact hpcNext
    · bv_omega
    · exact ha
  | index a ha =>
    have hindex : (s.setI a).Inv := { h with index := ha }
    exact hindex.setPc hpcNext
  | memory a xs ha =>
    have hmem : (s.setMem (s.mem.writeBytes a xs)).Inv :=
      { h with memory := Memory.wf_writeBytes xs s.mem h.memory a ha }
    exact hmem.setPc hpcNext
  | display d v =>
    have hdisp : ((s.setDisp d).setRegs v).Inv := { h with }
    exact hdisp.setPc hpcNext
  | delay x =>
    have hdt : (s.setDt x).Inv := { h with }
    exact hdt.setPc hpcNext
  | sound x =>
    have hst : (s.setSt x).Inv := { h with }
    exact hst.setPc hpcNext
  | keyTaken v =>
    have hregs : (s.setRegs v).Inv := { h with }
    exact (hregs.setRs hrs (by simp)).setPc hpcNext
  | keyWait x => exact h.setRs hrs (by simp)
  | push nnn h0 hlt =>
    exact (h.push hnext h0 hlt).setPc (by rw [address_toNat]; omega)
  | pop h0 hlt =>
    have htop : s.dropTop.sp.toNat < s.sp.toNat := by rw [State.dropTop_sp]; bv_omega
    exact (h.dropTop h0).setPc ((h.returns ⟨s.dropTop.sp.toNat, hlt⟩ htop).trans (by decide))
  | outOfRange w => exact h.raiseHalt w (by simp) (by simp) (by simp)
  | overflow w => exact (h.reportOverflow w).afterReport w hpc (by simp) (fun _ => rfl) (by simp)
  | underflow w => exact (h.reportUnderflow w).afterReport w hpc (by simp) (by simp) (fun _ => rfl)

/-- Settles O19, one way a tick can end after the other. -/
theorem everyStepKeepsTheStateInvariant : Obligations.EveryStepKeepsTheStateInvariant := by
  intro s t hinv h
  by_cases hrs : s.rs = .halted
  · rw [step_halted s hrs] at h
    obtain rfl := Host.Outcome.next.inj h
    exact hinv
  have hp := hinv.poll
  obtain ⟨_, hs⟩ | ⟨_, _, hs⟩ | ⟨_, _, hs⟩ | ⟨w, _, _, _, _, hs⟩ | ⟨w, i, _, hf, _, hs⟩ :=
    step_cases s hrs <;> rw [hs] at h
  · obtain rfl := Host.Outcome.next.inj h
    exact hp.haltOnClose
  · obtain rfl := Host.Outcome.next.inj h
    exact hp.raiseHalt 0 (by simp) (by simp) (by simp)
  · obtain rfl := Host.Outcome.next.inj h
    exact hp.raiseHalt 0 (by simp) (by simp) (by simp)
  · obtain rfl := Host.Outcome.next.inj h
    exact hp.raiseHalt w (by simp) (by simp) (by simp)
  · obtain ⟨u, hu, rfl⟩ := runInstr_next i s.poll t h
    have hpc := s.poll.fetch_some_inside w hf
    exact ((exec_effect i s.poll u hu).keeps_inv hp (by omega) (by rwa [s.poll_rs])).endTick

/-! ### No run ends in a fault or a refusal -/

/-- With SP in 0..15 (R36) every instruction has a next state. -/
theorem exec_next_of_sp_le (i : Instr) (s : State) (hsp : s.sp.toNat ≤ 15) : ∃ t, exec i s = .next t := by
  cases i with
  | ret =>
    by_cases h0 : s.sp = 0
    · exact ⟨_, exec_ret_underflow s h0⟩
    · exact ⟨_, exec_ret_pop s h0 (by rw [State.dropTop_sp]; bv_omega)⟩
  | call nnn =>
    by_cases h0 : s.sp = 15
    · exact ⟨_, exec_call_overflow s nnn h0⟩
    · exact ⟨_, exec_call_push s nnn h0 (by omega)⟩
  | drw x y n =>
    by_cases hn : n.val = 0
    · exact ⟨_, exec_drw_inside s x y n (.inl hn)⟩
    · exact ⟨_, if_neg hn⟩
  | ldVxK x =>
    cases hk : s.firstKey with
    | none => exact ⟨_, exec_ldVxK_noKey s x ((State.firstKey_none s).mp hk)⟩
    | some k =>
      obtain ⟨hlt, hdown, hleast⟩ := (State.firstKey_some s k).mp hk
      exact ⟨_, exec_ldVxK_pressed s x k hlt hdown hleast⟩
  | _ => exact ⟨_, rfl⟩

theorem step_next_of_inv (s : State) (hinv : s.Inv) : ∃ t, step s = .next t := by
  by_cases hrs : s.rs = .halted
  · exact ⟨s, step_halted s hrs⟩
  obtain ⟨_, hs⟩ | ⟨_, _, hs⟩ | ⟨_, _, hs⟩ | ⟨_, _, _, _, _, hs⟩ | ⟨w, i, _, _, _, hs⟩ := step_cases s hrs
  · exact ⟨_, hs⟩
  · exact ⟨_, hs⟩
  · exact ⟨_, hs⟩
  · exact ⟨_, hs⟩
  · obtain ⟨u, hu⟩ := exec_next_of_sp_le i s.poll hinv.poll.spBound
    exact ⟨u.endTick, by rw [hs, runInstr, hu]⟩

/-- Settles O22, by induction on the number of steps. -/
theorem noRunFaultsOrRefuses : Obligations.NoRunFaultsOrRefuses := by
  intro k
  induction k with
  | zero => exact fun s hinv => ⟨s, run_zero s, hinv⟩
  | succ k ih =>
    intro s hinv
    obtain ⟨u, hu⟩ := step_next_of_inv s hinv
    obtain ⟨t, ht, htinv⟩ := ih u (everyStepKeepsTheStateInvariant s u hinv hu)
    exact ⟨t, by rw [run_succ k s u hu, ht], htinv⟩

/-! ### The invariant of the key wait -/

/-- A tick that ends waiting ran an `Fx0A`: any other keeps RS, so it began waiting, at an `Fx0A`. -/
theorem exists_keyWait_of_waits (s t : State) (hinv : s.WaitInv) (h : step s = .next t)
    (ht : t.rs = .waitingForKey) : ∃ x, Fetches s (.ldVxK x) := by
  have hrs : s.rs ≠ .halted := by
    intro hrs
    obtain rfl := Host.Outcome.next.inj ((step_halted s hrs).symm.trans h)
    simp [hrs] at ht
  by_contra hnot
  have hby := step_haltsBy s t hrs (fun x hx => hnot ⟨x, hx⟩) h
  by_cases hcond : haltCondition s.poll = .none
  · have hwaits : s.rs = .waitingForKey := by rw [← s.poll_rs, ← (hby.keeps hcond).1, ht]
    have hopen : s.poll.closeReq = false := by
      by_contra hclose
      rw [haltCondition_close _ (Bool.not_eq_false _ ▸ hclose)] at hcond
      cases hcond
    obtain ⟨w, x, hf, hd⟩ := hinv hwaits
    exact hnot ⟨x, (fetches_iff s _).mpr ⟨hrs, hopen, w, hf, hd⟩⟩
  · rw [(hby.halted hcond).1] at ht
    cases ht

/-- A waiting tick leaves PC and memory, so the next fetch gives the same word. -/
theorem step_keyWait_fetch (s t : State) (x : Reg) (hF : Fetches s (.ldVxK x)) (h : step s = .next t)
    (ht : t.rs = .waitingForKey) : t.fetch = s.fetch := by
  by_cases hk : ∃ k < 16, s.poll.keys.getLsbD k = true
  · rw [(step_keyWait_pressed s t x hF h hk).1] at ht
    cases ht
  · obtain ⟨u, hu, rfl⟩ := runInstr_next _ _ _ ((step_of_fetches s _ hF).symm.trans h)
    rw [exec_ldVxK_noKey _ _ (by simpa using hk)] at hu
    obtain rfl := Host.Outcome.next.inj hu
    rw [State.endTick_waiting _ rfl, ← s.poll_fetch]
    rfl

/-- Settles O23: the tick that waits ran the `Fx0A` it leaves at PC. -/
theorem everyStepKeepsTheWaitInvariant : Obligations.EveryStepKeepsTheWaitInvariant := by
  intro s t hinv h ht
  obtain ⟨x, hF⟩ := exists_keyWait_of_waits s t hinv h ht
  obtain ⟨_, _, w, hf, hd⟩ := (fetches_iff s _).mp hF
  exact ⟨w, x, (step_keyWait_fetch s t x hF h ht).trans hf, hd⟩

/-- Settles O20: the reset state runs, and its fields are in range. -/
theorem resetMeetsTheInvariants : Obligations.ResetMeetsTheInvariants := by
  refine ⟨⟨by decide, by decide, by decide, by decide, by decide, by decide, by decide, by decide⟩, fun hrs => ?_⟩
  cases hrs

/-! ### The parameters -/

theorem keepsEnvironment_afterReport (s : State) (c : HaltCause) (w : Word) :
    KeepsEnvironment s (s.afterReport c w) := by
  cases hp : s.params.stackFaultPolicy with
  | halt => rw [s.afterReport_halt c w hp]; exact ⟨rfl, rfl, rfl, rfl, rfl, rfl, rfl⟩
  | continues => rw [s.afterReport_continues c w hp]; exact ⟨rfl, rfl, rfl, rfl, rfl, rfl, rfl⟩

/-- No instruction writes an input, the script, the frame count or a parameter. -/
theorem Effect.keepsEnvironment {i : Instr} {s t : State} (he : Effect i s t) : KeepsEnvironment s t := by
  cases he with
  | overflow w => exact keepsEnvironment_afterReport (s.reportOverflow w) .stackOverflow w
  | underflow w => exact keepsEnvironment_afterReport (s.reportUnderflow w) .stackUnderflow w
  | _ => exact ⟨rfl, rfl, rfl, rfl, rfl, rfl, rfl⟩

theorem State.poll_params (s : State) : s.poll.params = s.params := by
  obtain ⟨_, h⟩ | ⟨_, _, _, h⟩ := s.poll_cases <;> rw [h]

@[simp] theorem State.endTick_params (s : State) : s.endTick.params = s.params := by rw [s.endTick_eq]

/-- Settles O24: the poll, every shape of a next state and the end of the tick keep the parameters. -/
theorem noStepChangesTheParameters : Obligations.NoStepChangesTheParameters := by
  intro s t h
  by_cases hrs : s.rs = .halted
  · obtain rfl := Host.Outcome.next.inj ((step_halted s hrs).symm.trans h)
    rfl
  obtain ⟨_, hs⟩ | ⟨_, _, hs⟩ | ⟨_, _, hs⟩ | ⟨_, _, _, _, _, hs⟩ | ⟨_, i, _, _, _, hs⟩ :=
    step_cases s hrs <;> rw [hs] at h
  case inr.inr.inr.inr =>
    obtain ⟨u, hu, rfl⟩ := runInstr_next i s.poll t h
    obtain ⟨_, _, _, _, _, _, hparams⟩ := (exec_effect i s.poll u hu).keepsEnvironment
    rw [State.endTick_params, hparams, s.poll_params]
  all_goals
    obtain rfl := Host.Outcome.next.inj h
    exact s.poll_params

end Sys2Proof.Machine
end

section
/-! PROOF. The parts of one tick of spec/40_step_loop.md: what the poll takes (R80), the fetch (R49), the loop's own
halts (R83, R140), the priority and the precision of halts (R146, R141) and the end of the tick (R88, R89, R93). -/

namespace Sys2Proof.Machine

/-! ### The poll -/

theorem keepsStatus_poll (s : State) : KeepsStatus s s.poll := by
  obtain ⟨_, h⟩ | ⟨_, _, _, h⟩ := s.poll_cases <;> rw [h] <;> exact ⟨rfl, rfl, rfl, rfl, rfl, rfl⟩

theorem State.poll_frames (s : State) : s.poll.frames = s.frames := by
  obtain ⟨_, h⟩ | ⟨_, _, _, h⟩ := s.poll_cases <;> rw [h]

theorem State.poll_scripted (s : State) (t : TickInput) (rest : List TickInput) (h : s.script = t :: rest) :
    s.poll = { s with keys := t.keys, closeReq := t.closeReq, draw := t.draw, script := rest } := by
  simp only [State.poll, h]

theorem State.poll_unscripted (s : State) (h : s.script = []) :
    s.poll = { s with draw := Config.freeDraw s.drawCount, drawCount := s.drawCount + 1 } := by
  simp only [State.poll, h]

/-- Settles O18: the poll with a scripted input and the poll without one. -/
theorem pollTakesTheNextInputs : Obligations.PollTakesTheNextInputs := by
  intro s
  refine ⟨fun t rest h => ?scripted, fun h => ?unscripted, keepsArchitecture_poll s, keepsStatus_poll s,
    s.poll_frames, s.poll_params⟩
  case scripted =>
    rw [s.poll_scripted t rest h]
    exact ⟨rfl, rfl, rfl, rfl, rfl⟩
  case unscripted =>
    rw [s.poll_unscripted h]
    exact ⟨rfl, rfl, h, rfl⟩

/-! ### The fetch and the loop's own halts -/

theorem step_noWord (s : State) (hrs : s.rs ≠ .halted) (hc : s.poll.closeReq = false) (hf : s.fetch = none) :
    step s = .next (s.poll.raiseHalt .outOfRangeAddress 0) := by
  rw [step_polled s hrs, afterPoll_noWord _ hc (by rw [s.poll_fetch, hf])]

theorem step_word (s : State) (w : Word) (hrs : s.rs ≠ .halted) (hc : s.poll.closeReq = false)
    (hf : s.fetch = some w) : step s = runWord w s.poll := by
  rw [step_polled s hrs, afterPoll_word _ w hc (by rw [s.poll_fetch, hf])]

/-- Settles O10: the word is its two bytes' number, and the tick without one halts. -/
theorem fetchIsBigEndianOrHalts : Obligations.FetchIsBigEndianOrHalts := by
  intro s
  refine ⟨fun hpc => ?inside, fun hpc => s.fetch_outside (by omega), fun hpc hrs hc => ?halts⟩
  case inside => exact ⟨_, s.fetch_inside (by omega), wordOfBytes_toNat _ _⟩
  case halts =>
    exact ⟨_, step_noWord s hrs hc (s.fetch_outside (by omega)), rfl, rfl,
      (keepsArchitecture_poll s).trans (keepsArchitecture_raiseHalt s.poll _ _)⟩

/-- Settles O11: each is one `raiseHalt` of the polled state. -/
theorem loopHaltsRecordTheirCause : Obligations.LoopHaltsRecordTheirCause := by
  intro s hrs hc
  refine ⟨fun hf => ?noWord, fun hf => ?sentinel, fun w hf h0 hd => ?unrecognized⟩
  case noWord => exact ⟨_, step_noWord s hrs hc hf, haltedWith_raiseHalt s.poll _ 0⟩
  case sentinel =>
    exact ⟨_, (step_word s 0 hrs hc hf).trans (runWord_zero s.poll), haltedWith_raiseHalt s.poll _ 0⟩
  case unrecognized =>
    exact ⟨_, (step_word s w hrs hc hf).trans (runWord_unrecognized s.poll w h0 hd), haltedWith_raiseHalt s.poll _ w⟩

/-! ### Which ticks halt, and what a halt leaves -/

/-- `Fx0A` has no halting condition, and its tick ends running or waiting. -/
theorem step_keyWait_not_halted (s t : State) (x : Reg) (hF : Fetches s (.ldVxK x)) (h : step s = .next t) :
    haltCondition s.poll = .none ∧ t.rs ≠ .halted := by
  constructor
  · obtain ⟨_, hc, w, hf, hd⟩ := (fetches_iff s _).mp hF
    exact haltCondition_instr s.poll w _ hc (by rw [s.poll_fetch, hf]) hd
  · by_cases hk : ∃ k < 16, s.poll.keys.getLsbD k = true
    · simp [(step_keyWait_pressed s t x hF h hk).1]
    · simp [(step_keyWait_noKey s t x hF h (by simpa using hk)).1]

/-- A tick ends halted exactly when a condition of R146's list holds. -/
theorem step_halted_iff (s t : State) (hrs : s.rs ≠ .halted) (h : step s = .next t) :
    t.rs = .halted ↔ haltCondition s.poll ≠ .none := by
  by_cases hk : ∃ x, Fetches s (.ldVxK x)
  · obtain ⟨x, hF⟩ := hk
    obtain ⟨hnone, hgoesOn⟩ := step_keyWait_not_halted s t x hF h
    simp [hnone, hgoesOn]
  · have hby := step_haltsBy s t hrs (fun x hx => hk ⟨x, hx⟩) h
    refine ⟨fun ht hnone => hrs ?_, fun hcond => (hby.halted hcond).1⟩
    rw [← s.poll_rs, ← (hby.keeps hnone).1, ht]

/-- A tick with a halting condition halts precisely and with that condition as its cause. -/
theorem step_halts (s t : State) (hrs : s.rs ≠ .halted) (h : step s = .next t) (hcond : haltCondition s.poll ≠ .none) :
    t.haltCause = haltCondition s.poll ∧ KeepsArchitecture s t ∧ t.frames = s.frames := by
  have hk : ∀ x, ¬ Fetches s (.ldVxK x) := fun x hF => hcond (step_keyWait_not_halted s t x hF h).1
  obtain ⟨_, hcause, hkeeps, hframes⟩ := (step_haltsBy s t hrs hk h).halted hcond
  exact ⟨hcause, (keepsArchitecture_poll s).trans hkeeps, hframes.trans s.poll_frames⟩

/-- Settles O12: `step_halted_iff` says when a tick halts, `step_halts` with which cause. -/
theorem haltsFollowThePriorityList : Obligations.HaltsFollowThePriorityList :=
  fun s t hrs h => ⟨step_halted_iff s t hrs h, fun hcond => (step_halts s t hrs h hcond).1⟩

/-- Settles O13: a halted tick has a halting condition, and a tick that has one halts precisely. -/
theorem everyHaltIsPrecise : Obligations.EveryHaltIsPrecise :=
  fun s t hrs h ht => (step_halts s t hrs h ((step_halted_iff s t hrs h).mp ht)).2

/-! ### The end of a tick -/

theorem State.endTick_st_of_running (s : State) (h : s.rs = .running) (hst : s.params.stDecrements = false) :
    s.endTick.st = s.st := by
  rw [s.endTick_running h, State.present_st, State.tickTimers_st, if_neg (by simp [hst])]

/-- Settles O14: one value of RS after the other. -/
theorem endOfTickCountsTheTimers : Obligations.EndOfTickCountsTheTimers := by
  intro u
  refine ⟨fun hrs => ?running, u.endTick_waiting, u.endTick_halted⟩
  refine ⟨u.endTick_dt_toNat_of_running hrs, u.endTick_st_toNat_of_running hrs, u.endTick_st_of_running hrs, ?_,
    u.endTick_eq⟩
  rw [u.endTick_running hrs]
  rfl

end Sys2Proof.Machine
end

section
/-! PROOF. The sound timer and the key wait of spec/46_timers_input.md (R135, R136), and the ticks of
spec/40_step_loop.md that use a timer or wait for a key (R92, R164, R165): what the instruction answers, and then the
end of its tick. -/

namespace Sys2Proof.Machine

/-! ### `LD ST, Vx` -/

theorem exec_ldStVx (s : State) (x : Reg) : exec (.ldStVx x) s = .next (s.setSt (s.getV x)).advance2 := rfl

/-- A write of ST and PC leaves all but the timers and PC alone. -/
theorem onlyTimers_setSt (s : State) (d : Byte) (a : Word) : OnlyTimers s ((s.setSt d).setPc a) :=
  ⟨fun _ _ => rfl, rfl, ⟨rfl, fun _ => rfl⟩, ⟨rfl, rfl, rfl, rfl, rfl, rfl⟩, fun _ _ => rfl, fun _ => rfl,
    ⟨rfl, rfl, rfl, rfl, rfl, rfl, rfl⟩⟩

/-- Settles O53: the write sets ST before the tick's end counts it down. -/
theorem soundTimerTransfer : Obligations.SoundTimerTransfer := fun s x =>
  ⟨encodeXB_maskHighLow 0xF x 0x18 _ rfl, (s.setSt (s.getV x)).advance2, exec_ldStVx s x, rfl, rfl,
    advanced_two s _ rfl, onlyTimers_setSt s (s.getV x) _,
    State.endTick_st_toNat_of_running (s.setSt (s.getV x)).advance2,
    State.endTick_st_of_running (s.setSt (s.getV x)).advance2⟩

/-! ### `LD Vx, K` -/

theorem onlyRegsAndRs_keyTaken (s : State) (x : Reg) (k : Byte) (r : RunState) (a : Word) :
    OnlyRegsAndRs s (((s.setV x k).setRs r).setPc a) [x] :=
  ⟨fun q hq => State.setV_getV_ne s x k q (by simpa using hq), rfl, ⟨rfl, fun _ => rfl⟩, ⟨rfl, rfl⟩,
    ⟨rfl, rfl, rfl, rfl, rfl⟩, fun _ _ => rfl, fun _ => rfl, ⟨rfl, rfl, rfl, rfl, rfl, rfl, rfl⟩⟩

theorem onlyRegsAndRs_setRs (s : State) (r : RunState) : OnlyRegsAndRs s (s.setRs r) [] :=
  ⟨fun _ _ => rfl, rfl, ⟨rfl, fun _ => rfl⟩, ⟨rfl, rfl⟩, ⟨rfl, rfl, rfl, rfl, rfl⟩, fun _ _ => rfl, fun _ => rfl,
    ⟨rfl, rfl, rfl, rfl, rfl, rfl, rfl⟩⟩

/-- A key wait waits, or takes the least key. -/
theorem exec_ldVxK_cases {s t : State} {x : Reg} (h : exec (.ldVxK x) s = .next t) :
    ((∀ k < 16, s.keys.getLsbD k = false) ∧ t = s.setRs .waitingForKey) ∨
    ∃ k < 16, s.keys.getLsbD k = true ∧ (∀ j < k, s.keys.getLsbD j = false) ∧
      t = ((s.setV x (BitVec.ofNat 8 k)).setRs .running).advance2 := by
  cases hk : s.firstKey with
  | none =>
    have hnone := (State.firstKey_none s).mp hk
    exact .inl ⟨hnone, Host.Outcome.next.inj (h.symm.trans (exec_ldVxK_noKey s x hnone))⟩
  | some k =>
    obtain ⟨hlt, hdown, hleast⟩ := (State.firstKey_some s k).mp hk
    exact .inr ⟨k, hlt, hdown, hleast,
      Host.Outcome.next.inj (h.symm.trans (exec_ldVxK_pressed s x k hlt hdown hleast))⟩

theorem ldVxK_takes (s : State) (x : Reg) {k : Nat} (hk : k < 16) (hdown : s.keys.getLsbD k = true)
    (hleast : ∀ j < k, s.keys.getLsbD j = false) :
    ∃ t, exec (.ldVxK x) s = .next t ∧ (t.getV x).toNat = k ∧ t.rs = .running ∧ Advanced s t 2 ∧
      OnlyRegsAndRs s t [x] := by
  have hloaded : (BitVec.ofNat 8 k).toNat = k := by rw [BitVec.toNat_ofNat, Nat.mod_eq_of_lt (by omega)]
  exact ⟨_, exec_ldVxK_pressed s x k hk hdown hleast, by simpa using hloaded, rfl, advanced_two s _ rfl,
    onlyRegsAndRs_keyTaken s x _ _ _⟩

theorem ldVxK_waits (s : State) (x : Reg) (h : ∀ k < 16, s.keys.getLsbD k = false) :
    ∃ t, exec (.ldVxK x) s = .next t ∧ t.rs = .waitingForKey ∧ KeepsPc s t ∧ OnlyRegsAndRs s t [] :=
  ⟨_, exec_ldVxK_noKey s x h, rfl, rfl, onlyRegsAndRs_setRs s _⟩

/-- Settles O54: the two cases of the key wait. -/
theorem keyWaitLoadsTheFirstKeyOrWaits : Obligations.KeyWaitLoadsTheFirstKeyOrWaits := fun s x =>
  ⟨encodeXB_maskHighLow 0xF x 0x0A _ rfl, fun _ hk hdown hleast => ldVxK_takes s x hk hdown hleast, ldVxK_waits s x⟩

/-! ### The tick of one instruction -/

theorem step_of_exec (s u : State) (i : Instr) (hF : Fetches s i) (hu : exec i s.poll = .next u) :
    step s = .next u.endTick := by
  rw [step_of_fetches s i hF, runInstr, hu]

@[simp] theorem State.poll_getV (s : State) (r : Reg) : s.poll.getV r = s.getV r := by
  obtain ⟨_, h⟩ | ⟨_, _, _, h⟩ := s.poll_cases <;> rw [h] <;> rfl

@[simp] theorem State.poll_dt (s : State) : s.poll.dt = s.dt := by
  obtain ⟨_, h⟩ | ⟨_, _, _, h⟩ := s.poll_cases <;> rw [h]

/-- Settles O15: the end of the tick counts down what the instruction left. -/
theorem timerTicksInTheTickThatUsesIt : Obligations.TimerTicksInTheTickThatUsesIt := by
  intro s x hrs
  have hpoll : s.poll.rs = .running := s.poll_rs.trans hrs
  refine ⟨fun hF => ?delay, fun hF => ?sound, fun hF => ?read⟩
  case delay =>
    obtain ⟨u, hu, _, _, _, _, hcounted⟩ := ldDtVx_transfers s.poll x
    exact ⟨u.endTick, step_of_exec s u _ hF hu, by simpa using hcounted hpoll⟩
  case sound =>
    obtain ⟨_, u, hu, _, _, _, _, hcounts, hkeeps⟩ := soundTimerTransfer s.poll x
    refine ⟨u.endTick, step_of_exec s u _ hF hu, ?_⟩
    cases hst : s.params.stDecrements with
    | true => simpa using hcounts hpoll (by rw [s.poll_params, hst])
    | false => simpa using congrArg BitVec.toNat (hkeeps hpoll (by rw [s.poll_params, hst]))
  case read =>
    obtain ⟨u, hu, _, _, _, hcounted⟩ := ldVxDt_transfers s.poll x
    exact ⟨u.endTick, step_of_exec s u _ hF hu, by simpa using hcounted hpoll⟩

theorem keepsArchitecture_present (s : State) : KeepsArchitecture s s.present :=
  ⟨fun _ _ => rfl, rfl, rfl, ⟨rfl, fun _ => rfl⟩, ⟨rfl, rfl⟩, fun _ _ => rfl, fun _ => rfl⟩

/-- Settles O16: the waiting tick adds one `present` event only, the other one also the timers' count. -/
theorem keyWaitFreezesUntilAKey : Obligations.KeyWaitFreezesUntilAKey := by
  intro s x hF
  refine ⟨fun hnone => ?waits, fun k hk hdown hleast => ?takes⟩
  case waits =>
    obtain ⟨u, hu, hrs, hpc, hregs, hindex, hstack, htimers, _, hdisp, hmem, henv⟩ := ldVxK_waits s.poll x hnone
    obtain ⟨_, _, _, _, _, hframes, _⟩ := henv
    have hwait : KeepsArchitecture s.poll u := ⟨hregs, hindex, hpc, hstack, htimers, hdisp, hmem⟩
    refine ⟨u.endTick, step_of_exec s u _ hF hu, ?_⟩
    rw [u.endTick_waiting hrs]
    refine ⟨hrs, ((keepsArchitecture_poll s).trans hwait).trans (keepsArchitecture_present u), ?_⟩
    rw [State.present_frames, hframes, s.poll_frames]
  case takes =>
    obtain ⟨u, hu, hload, hrs, hadvanced, hframe⟩ := ldVxK_takes s.poll x hk hdown hleast
    obtain ⟨_, _, _, ⟨hdt, _⟩, _⟩ := hframe
    refine ⟨u.endTick, step_of_exec s u _ hF hu, by simpa using hrs, by simpa using hload, ?_, ?_⟩
    · simpa [Advanced, s.poll_pc] using hadvanced
    · rw [u.endTick_dt_toNat_of_running hrs, hdt, s.poll_dt]

/-! ### WAITING_FOR_KEY with another word at PC -/

theorem exists_fetches_of_no_haltCondition (s : State) (hrs : s.rs ≠ .halted) (h : haltCondition s.poll = .none) :
    ∃ i, Fetches s i := by
  obtain ⟨hc, _⟩ | ⟨hc, hf, _⟩ | ⟨hc, hf, _⟩ | ⟨w, hc, hf, h0, hd, _⟩ | ⟨w, i, hc, hf, hd, _⟩ := step_cases s hrs
  · simp [haltCondition_close _ hc] at h
  · simp [haltCondition_noWord _ hc hf] at h
  · simp [haltCondition_sentinel _ hc hf] at h
  · simp [haltCondition_unrecognized _ w hc hf h0 hd] at h
  · exact ⟨i, (fetches_iff s i).mpr ⟨hrs, hc, w, by rw [← s.poll_fetch, hf], hd⟩⟩

/-- Settles O59: away from `Fx0A` RS is kept, so the end of the tick counts no timer. -/
theorem waitingWithAnotherWordRunsIt : Obligations.WaitingWithAnotherWordRunsIt := by
  intro s t hwait _ hk h
  have hrs : s.rs ≠ .halted := by simp [hwait]
  have hby := step_haltsBy s t hrs hk h
  refine ⟨fun hnone => ?runs, fun hcond => ?halts⟩
  case runs =>
    have ht : t.rs = .waitingForKey := by rw [(hby.keeps hnone).1, s.poll_rs, hwait]
    obtain ⟨i, hF⟩ := exists_fetches_of_no_haltCondition s hrs hnone
    obtain ⟨u, hu, rfl⟩ := runInstr_next i s.poll t ((step_of_fetches s i hF).symm.trans h)
    exact ⟨ht, i, u, hF, hu, u.endTick_waiting (by simpa using ht)⟩
  case halts =>
    obtain ⟨hhalted, hcause, _⟩ := hby.halted hcond
    exact ⟨hhalted, hcause⟩

end Sys2Proof.Machine
end

section
/-! PROOF. The stack and the computed jump of spec/41_control_transfer.md (R96 to R101): the push and the pop within
the sixteen cells, the reported faults at both ends under each policy, and the stop where there is no cell. -/

namespace Sys2Proof.Machine

/-! ### `JP V0, nnn` -/

/-- A 12-bit target and a byte sum to at most 0x10FE, which 16 bits hold (R100). -/
theorem offsetAddress_toNat (s : State) (nnn : BitVec 12) :
    (offsetAddress s nnn).toNat = nnn.toNat + (s.getV 0).toNat := by
  simp only [offsetAddress]
  bv_omega

/-- Settles O28: one write of PC. -/
theorem jumpWithOffsetSetsPcUnmasked : Obligations.JumpWithOffsetSetsPcUnmasked := fun s nnn =>
  ⟨encodeNNN_maskHigh 0xB nnn _ rfl, s.setPc (offsetAddress s nnn), rfl, offsetAddress_toNat s nnn, onlyPc_setPc s _⟩

/-! ### A call and a return, case by case -/

/-- A call that has a next state reports an overflow, or pushes. -/
theorem exec_call_cases {s t : State} {nnn : BitVec 12} (h : exec (.call nnn) s = .next t) :
    (s.sp = 15 ∧ t = s.overflowFault (encode (.call nnn))) ∨
    ∃ hlt : s.sp.toNat < 16, s.sp ≠ 15 ∧ t = (s.push (s.pc + 2) hlt).setPc (address nnn) := by
  by_cases h15 : s.sp = 15
  · exact .inl ⟨h15, Host.Outcome.next.inj (h.symm.trans (exec_call_overflow s nnn h15))⟩
  · by_cases hlt : s.sp.toNat < 16
    · exact .inr ⟨hlt, h15, Host.Outcome.next.inj (h.symm.trans (exec_call_push s nnn h15 hlt))⟩
    · exact absurd ((if_neg h15).trans (dif_neg hlt) |>.symm.trans h) (by simp)

/-- A return that has a next state reports an underflow, or pops. -/
theorem exec_ret_cases {s t : State} (h : exec .ret s = .next t) :
    (s.sp = 0 ∧ t = s.underflowFault (encode .ret)) ∨
    ∃ hlt : s.dropTop.sp.toNat < 16, s.sp ≠ 0 ∧ t = s.dropTop.setPc s.stack[s.dropTop.sp.toNat] := by
  by_cases h0 : s.sp = 0
  · exact .inl ⟨h0, Host.Outcome.next.inj (h.symm.trans (exec_ret_underflow s h0))⟩
  · by_cases hlt : s.dropTop.sp.toNat < 16
    · exact .inr ⟨hlt, h0, Host.Outcome.next.inj (h.symm.trans (exec_ret_pop s h0 hlt))⟩
    · exact absurd ((if_neg h0).trans (dif_neg hlt) |>.symm.trans h) (by simp)

theorem State.dropTop_sp_toNat_lt (s : State) (h : s.sp ≠ 0) : s.dropTop.sp.toNat < s.sp.toNat := by
  rw [State.dropTop_sp]
  bv_omega

/-! ### A call and a return within the stack -/

theorem onlyStack_push (s : State) (a b : Word) (h : s.sp.toNat < 16) : OnlyStack s ((s.push a h).setPc b) :=
  ⟨fun _ _ => rfl, rfl, ⟨rfl, rfl⟩, ⟨rfl, rfl, rfl, rfl, rfl, rfl⟩, fun _ _ => rfl, fun _ => rfl,
    ⟨rfl, rfl, rfl, rfl, rfl, rfl, rfl⟩⟩

theorem onlyStack_dropTop (s : State) (a : Word) : OnlyStack s (s.dropTop.setPc a) :=
  ⟨fun _ _ => rfl, rfl, ⟨rfl, rfl⟩, ⟨rfl, rfl, rfl, rfl, rfl, rfl⟩, fun _ _ => rfl, fun _ => rfl,
    ⟨rfl, rfl, rfl, rfl, rfl, rfl, rfl⟩⟩

/-- Settles O29: the push writes the cell at SP and leaves the others. -/
theorem callPushesTheNextAddress : Obligations.CallPushesTheNextAddress := by
  intro s nnn hsp
  have h15 : s.sp ≠ 15 := by bv_omega
  refine ⟨encodeNNN_maskHigh 0x2 nnn _ rfl, _, exec_call_push s nnn h15 (by omega), address_toNat nnn, ?sp,
    fun k => ?cell, onlyStack_push s _ _ _⟩
  case sp =>
    rw [State.setPc_sp, State.push_sp]
    bv_omega
  case cell => simp [Vector.getElem_set, eq_comm]

theorem ret_hasTemplate : HasTemplate .ret 0xFFFF 0x00EE := by
  unfold HasTemplate
  decide

/-- Settles O30: the pop reads the cell below SP. -/
theorem returnPopsTheTopCell : Obligations.ReturnPopsTheTopCell := by
  intro s k hsp
  have h0 : s.sp ≠ 0 := by bv_omega
  have htop : s.dropTop.sp.toNat = k.val := by
    rw [State.dropTop_sp]
    bv_omega
  refine ⟨ret_hasTemplate, _, exec_ret_pop s h0 (by omega), ?cell, htop, fun _ => rfl, onlyStack_dropTop s _⟩
  case cell => simp only [State.setPc_pc, htop]

/-- Settles O34: the return pops the cell that the call pushed. -/
theorem callThenReturnComesBack : Obligations.CallThenReturnComesBack := by
  intro s t u nnn hsp ht husp hcell
  obtain ⟨_, t', ht', _, hsp', hstack, _⟩ := callPushesTheNextAddress s nnn hsp
  obtain rfl := Host.Outcome.next.inj (ht'.symm.trans ht)
  have htop : u.sp.toNat = s.sp.toNat + 1 := husp ▸ hsp'
  obtain ⟨_, w, hw, hpc, hwsp, _⟩ := returnPopsTheTopCell u ⟨s.sp.toNat, by omega⟩ htop
  refine ⟨w, hw, advanced_two s w ?_, BitVec.eq_of_toNat_eq hwsp⟩
  rw [hpc, hcell ⟨s.sp.toNat, by omega⟩ rfl, hstack, if_pos rfl]

/-! ### The reported faults at both ends of the stack -/

/-- What follows the report of a stack fault in `s`, whatever the policy and under each policy (R96, R142, R143). -/
structure FollowsReport (s t : State) (c : HaltCause) (w : Word) : Prop where
  overflow : t.diagOvf = s.diagOvf
  underflow : t.diagUnf = s.diagUnf
  faultPc : t.faultPc = s.pc
  faultWord : t.faultWord = w
  regs : KeepsRegs s t []
  index : KeepsIndex s t
  stack : KeepsStack s t
  timers : KeepsTimers s t
  display : KeepsDisplay s t
  memory : KeepsMemory s t
  environment : KeepsEnvironment s t
  halts : s.params.stackFaultPolicy = .halt → t.rs = .halted ∧ t.haltCause = c ∧ KeepsPc s t
  goesOn : s.params.stackFaultPolicy = .continues → t.rs = s.rs ∧ t.haltCause = s.haltCause ∧ Advanced s t 2

/-- After a report, FAULT_PC and FAULT_WORD hold the tick's PC and word already. -/
theorem followsReport_afterReport (s : State) (c : HaltCause) (w : Word) (hpc : s.faultPc = s.pc)
    (hword : s.faultWord = w) : FollowsReport s (s.afterReport c w) c w := by
  cases hp : s.params.stackFaultPolicy with
  | halt =>
    rw [s.afterReport_halt c w hp]
    exact ⟨rfl, rfl, rfl, rfl, fun _ _ => rfl, rfl, ⟨rfl, fun _ => rfl⟩, ⟨rfl, rfl⟩, fun _ _ => rfl, fun _ => rfl,
      ⟨rfl, rfl, rfl, rfl, rfl, rfl, rfl⟩, fun _ => ⟨rfl, rfl, rfl⟩, fun h => by simp [hp] at h⟩
  | continues =>
    rw [s.afterReport_continues c w hp]
    exact ⟨rfl, rfl, hpc, hword, fun _ _ => rfl, rfl, ⟨rfl, fun _ => rfl⟩, ⟨rfl, rfl⟩, fun _ _ => rfl, fun _ => rfl,
      ⟨rfl, rfl, rfl, rfl, rfl, rfl, rfl⟩, fun h => by simp [hp] at h, fun _ => ⟨rfl, rfl, advanced_two s _ rfl⟩⟩

theorem followsReport_overflowFault (s : State) (w : Word) :
    FollowsReport (s.reportOverflow w) (s.overflowFault w) .stackOverflow w :=
  followsReport_afterReport _ _ w rfl rfl

theorem followsReport_underflowFault (s : State) (w : Word) :
    FollowsReport (s.reportUnderflow w) (s.underflowFault w) .stackUnderflow w :=
  followsReport_afterReport _ _ w rfl rfl

/-- Settles O31: the report sets DIAG_OVF, and the rest is what follows a report. -/
theorem callOverflowIsReported : Obligations.CallOverflowIsReported := by
  intro s nnn hsp
  have h := followsReport_overflowFault s (encode (.call nnn))
  exact ⟨_, exec_call_overflow s nnn hsp, h.overflow, h.underflow, h.faultPc, h.faultWord, h.regs, h.index, h.stack,
    h.timers, h.display, h.memory, h.environment, h.halts, h.goesOn⟩

/-- Settles O32: the report sets DIAG_UNF, and the rest is what follows a report. -/
theorem returnUnderflowIsReported : Obligations.ReturnUnderflowIsReported := by
  intro s hsp
  have h := followsReport_underflowFault s (encode .ret)
  exact ⟨_, exec_ret_underflow s hsp, h.underflow, h.overflow, h.faultPc, h.faultWord, h.regs, h.index, h.stack,
    h.timers, h.display, h.memory, h.environment, h.halts, h.goesOn⟩

/-! ### No cell -/

/-- Settles O33: SP and SP - 1 are past the last cell, and past the invariant's bound. -/
theorem stackHasNoCellBeyondItsSixteen : Obligations.StackHasNoCellBeyondItsSixteen := by
  refine fun s nnn => ⟨fun hsp => ⟨?call, fun hinv => ?inv⟩, fun hsp => ?ret⟩
  case call =>
    have h15 : s.sp ≠ 15 := by bv_omega
    exact (if_neg h15).trans (dif_neg (by omega))
  case inv =>
    have := hinv.spBound
    omega
  case ret =>
    have h0 : s.sp ≠ 0 := by bv_omega
    exact (if_neg h0).trans (dif_neg (by rw [State.dropTop_sp]; bv_omega))

end Sys2Proof.Machine
end

section
/-! PROOF. The operations of spec/43_alu.md that set VF, and the random draw (R113 to R118). One lemma says what the
write of a result and its flag leaves under each XF_DEST_RULE (spec/10_state.md R28), and one what a shift leaves; the
rest is what the results and the flags are as numbers. -/

namespace Sys2Proof.Machine

/-! ### Results and flags as numbers -/

theorem carryFlag_toNat (a b : Byte) : (carryFlag a b).toNat = if a.toNat + b.toNat > 255 then 1 else 0 := by
  simp [carryFlag, flagByte_toNat]

theorem noBorrowFlag_toNat (a b : Byte) : (noBorrowFlag a b).toNat = if b.toNat ≤ a.toNat then 1 else 0 := by
  simp [noBorrowFlag, flagByte_toNat]

theorem sub_toNat_int (a b : Byte) : ((a - b).toNat : Int) = (a.toNat - b.toNat : Int) % 256 := by
  rw [BitVec.toNat_sub]
  omega

theorem shiftRight_one_toNat (a : Byte) : (a >>> 1).toNat = a.toNat / 2 := by
  rw [BitVec.toNat_ushiftRight, Nat.shiftRight_eq_div_pow, Nat.pow_one]

theorem shiftLeft_one_toNat (a : Byte) : (a <<< 1).toNat = a.toNat * 2 % 256 := by
  rw [BitVec.toNat_shiftLeft, Nat.shiftLeft_eq, Nat.pow_one]

/-! ### What an operation with a flag answers -/

/-- An instruction that means one `writeResult`: only with x = 15 does XF_DEST_RULE matter. -/
theorem exec_writeResult_answers {i : Instr} {s : State} {x : Reg} {flag result : Byte}
    (hexec : exec i s = .next (s.writeResult x flag result).advance2) :
    ∃ t, exec i s = .next t ∧ Advanced s t 2 ∧ OnlyRegs s t [x, regF] ∧
      (x ≠ regF → t.getV x = result ∧ t.getV regF = flag) ∧
      (x = regF → s.params.xfDestRule ≠ .flagWins → t.getV regF = result) ∧
      (x = regF → s.params.xfDestRule = .flagWins → t.getV regF = flag) := by
  refine ⟨_, hexec, advanced_two s _ (by simp), onlyRegs_writeResult s x flag result _, fun hx => ⟨?_, ?_⟩,
    fun hx hrule => ?_, fun hx hrule => ?_⟩ <;>
    simp [State.writeResult_getV, *]

/-- An instruction that means one `writeShift`. -/
theorem exec_writeShift_answers {i : Instr} {s : State} {x : Reg} {flag : Byte} {f : Byte → Byte}
    (hexec : exec i s = .next (s.writeShift x flag f).advance2) :
    ∃ t, exec i s = .next t ∧ Advanced s t 2 ∧ OnlyRegs s t [x, regF] ∧
      (x ≠ regF → t.getV x = f (s.getV x) ∧ t.getV regF = flag) ∧
      (x = regF → s.params.xfDestRule = .sequential → t.getV regF = f flag) ∧
      (x = regF → s.params.xfDestRule = .snapshot → t.getV regF = f (s.getV x)) ∧
      (x = regF → s.params.xfDestRule = .flagWins → t.getV regF = flag) := by
  refine ⟨_, hexec, advanced_two s _ (by simp), onlyRegs_writeShift s x flag f _, fun hx => ⟨?_, ?_⟩,
    fun hx hrule => ?_, fun hx hrule => ?_, fun hx hrule => ?_⟩ <;>
    simp [State.writeShift_getV, *]

/-! ### `ADD`, `SUB` and `SUBN` -/

/-- Settles O39: one `writeResult` of the sum and the carry. -/
theorem addSetsSumAndCarry : Obligations.AddSetsSumAndCarry := by
  intro s x y
  obtain ⟨t, hnext, hadvanced, hframe, hother, hresult, hflag⟩ :=
    exec_writeResult_answers (i := .addReg x y) (s := s) rfl
  refine ⟨encodeXY_maskEnds 0x8 x y 0x4 _ rfl, t, hnext, hadvanced, hframe, fun hx => ?_, fun hx hrule => ?_,
    fun hx hrule => ?_⟩
  · rw [(hother hx).1, (hother hx).2]
    exact ⟨BitVec.toNat_add _ _, carryFlag_toNat _ _⟩
  · rw [hresult hx hrule]
    exact BitVec.toNat_add _ _
  · rw [hflag hx hrule]
    exact carryFlag_toNat _ _

/-- An instruction that writes the difference `a - b` and no-borrow, as `SUB` and `SUBN` do. -/
theorem exec_difference_answers {i : Instr} {s : State} {x : Reg} {a b : Byte}
    (hexec : exec i s = .next (s.writeResult x (noBorrowFlag a b) (a - b)).advance2) :
    ∃ t, exec i s = .next t ∧ Advanced s t 2 ∧ OnlyRegs s t [x, regF] ∧
      (x ≠ regF → ((t.getV x).toNat : Int) = (a.toNat - b.toNat : Int) % 256 ∧
        (t.getV regF).toNat = if b.toNat ≤ a.toNat then 1 else 0) ∧
      (x = regF → s.params.xfDestRule ≠ .flagWins →
        ((t.getV regF).toNat : Int) = (a.toNat - b.toNat : Int) % 256) ∧
      (x = regF → s.params.xfDestRule = .flagWins →
        (t.getV regF).toNat = if b.toNat ≤ a.toNat then 1 else 0) := by
  obtain ⟨t, hnext, hadvanced, hframe, hother, hresult, hflag⟩ := exec_writeResult_answers hexec
  refine ⟨t, hnext, hadvanced, hframe, fun hx => ?_, fun hx hrule => ?_, fun hx hrule => ?_⟩
  · rw [(hother hx).1, (hother hx).2]
    exact ⟨sub_toNat_int a b, noBorrowFlag_toNat a b⟩
  · rw [hresult hx hrule]
    exact sub_toNat_int a b
  · rw [hflag hx hrule]
    exact noBorrowFlag_toNat a b

/-- Settles O40: the two differ in which operand is subtracted. -/
theorem subtractionsSetDifferenceAndNoBorrow : Obligations.SubtractionsSetDifferenceAndNoBorrow := fun s x y =>
  ⟨⟨encodeXY_maskEnds 0x8 x y 0x5 _ rfl, exec_difference_answers (a := s.getV x) (b := s.getV y) rfl⟩,
    ⟨encodeXY_maskEnds 0x8 x y 0x7 _ rfl, exec_difference_answers (a := s.getV y) (b := s.getV x) rfl⟩⟩

/-! ### `SHR` and `SHL` -/

/-- Settles O41: each is one `writeShift`, of the bit shifted out. -/
theorem shiftsMoveOneBitIntoVF : Obligations.ShiftsMoveOneBitIntoVF := by
  intro s x y
  refine ⟨⟨encodeXY_maskEnds 0x8 x y 0x6 _ rfl, ?shr⟩, ⟨encodeXY_maskEnds 0x8 x y 0xE _ rfl, ?shl⟩⟩
  case shr =>
    obtain ⟨t, hnext, hadvanced, hframe, hother, hseq, hsnap, hwins⟩ :=
      exec_writeShift_answers (i := .shr x y) (s := s) rfl
    refine ⟨t, hnext, hadvanced, hframe, fun hx => ?_, fun hx hrule => ?_, fun hx hrule => ?_, fun hx hrule => ?_⟩
    · rw [(hother hx).1, (hother hx).2]
      exact ⟨shiftRight_one_toNat _, shiftedOutLow_toNat _⟩
    · rw [hseq hx hrule, shiftRight_one_toNat, shiftedOutLow_toNat]
      omega
    · rw [hsnap hx hrule, shiftRight_one_toNat]
    · rw [hwins hx hrule, shiftedOutLow_toNat]
  case shl =>
    obtain ⟨t, hnext, hadvanced, hframe, hother, hseq, hsnap, hwins⟩ :=
      exec_writeShift_answers (i := .shl x y) (s := s) rfl
    refine ⟨t, hnext, hadvanced, hframe, fun hx => ?_, fun hx hrule => ?_, fun hx hrule => ?_, fun hx hrule => ?_⟩
    · rw [(hother hx).1, (hother hx).2]
      exact ⟨shiftLeft_one_toNat _, shiftedOutHigh_toNat _⟩
    · rw [hseq hx hrule, shiftLeft_one_toNat, shiftedOutHigh_toNat]
    · rw [hsnap hx hrule, shiftLeft_one_toNat]
    · rw [hwins hx hrule, shiftedOutHigh_toNat]

/-! ### `RND` -/

/-- Settles O42: one `setV` of the draw under the mask. -/
theorem randomIsTheDrawUnderTheMask : Obligations.RandomIsTheDrawUnderTheMask := fun _ x kk =>
  ⟨encodeXB_maskHigh 0xC x kk _ rfl, exec_setV_advances_bits rfl fun _ => BitVec.getLsbD_and⟩

end Sys2Proof.Machine
end

section
/-! PROOF. The memory transfers of spec/44_index_memory.md (R122 to R124) within memory and past its end (R55, R145),
and the fetch of a stored word (R61). `Fx33` and `Fx55` are one `writeBytes` each, so one lemma about that store
serves both. -/

namespace Sys2Proof.Machine

theorem addrAt_zero_add (s : State) (k : Nat) : addrAt s 0 + k = addrAt s k := rfl

/-! ### What a store answers -/

/-- An instruction that means one store of bytes inside memory: they read back, and no other byte changes. -/
theorem exec_store_answers {i : Instr} {s : State} {a : Nat} {xs : List Byte}
    (hexec : exec i s = .next (s.setMem (s.mem.writeBytes a xs)).advance2) (hwf : s.mem.wf = true)
    (ha : a + xs.length ≤ 4096) :
    ∃ t, exec i s = .next t ∧ (∀ k, (hk : k < xs.length) → t.readByte (a + k) = xs[k]) ∧
      (∀ c, (∀ k < xs.length, c ≠ a + k) → t.readByte c = s.readByte c) ∧
      t.mem.wf = true ∧ Advanced s t 2 ∧ OnlyMemory s t := by
  refine ⟨_, hexec, fun k hk => ?inside, fun c hc => ?outside, ?wf, advanced_two s _ rfl, onlyMemory_setMem s _ _⟩
  case inside => exact Memory.read_writeBytes_inside xs s.mem hwf a k hk ha
  case outside =>
    refine Memory.read_writeBytes_outside xs s.mem a c ?_
    by_contra hin
    exact hc (c - a) (by omega) (by omega)
  case wf => exact Memory.wf_writeBytes xs s.mem hwf a ha

theorem exec_ldBcd_inside (s : State) (x : Reg) (h : addrAt s 2 ≤ 0xFFF) :
    exec (.ldBcd x) s = .next (s.setMem (s.mem.writeBytes (addrAt s 0) (bcdDigits (s.getV x)))).advance2 :=
  congrArg _ (s.withRange_inside _ _ _ h)

theorem exec_stRegs_inside (s : State) (x : Reg) (h : addrAt s x.val ≤ 0xFFF) :
    exec (.stRegs x) s =
      .next (s.setMem (s.mem.writeBytes (addrAt s 0) (s.firstRegs (x.val + 1)))).advance2 :=
  congrArg _ (s.withRange_inside _ _ _ h)

theorem exec_ldRegs_inside (s : State) (x : Reg) (h : addrAt s x.val ≤ 0xFFF) :
    exec (.ldRegs x) s = .next (s.setRegs (s.loadedRegs (addrAt s 0) (x.val + 1))).advance2 :=
  congrArg _ (s.withRange_inside _ _ _ h)

/-! ### `LD B, Vx` -/

/-- A digit is a number below 256, which a byte holds. -/
theorem digit_toNat {n : Nat} (h : n < 256) : (BitVec.ofNat 8 n).toNat = n := by
  rw [BitVec.toNat_ofNat, Nat.mod_eq_of_lt h]

/-- Settles O44: the three digits, read back one by one. -/
theorem bcdStoresThreeDigits : Obligations.BcdStoresThreeDigits := by
  intro s x hwf hr
  have hlt := (s.getV x).isLt
  have hin : addrAt s 0 + (bcdDigits (s.getV x)).length ≤ 4096 := by
    simp only [addrAt, bcdDigits, List.length_cons, List.length_nil] at *
    omega
  have hthree : (bcdDigits (s.getV x)).length = 3 := rfl
  obtain ⟨t, hnext, hinside, houtside, hrest⟩ := exec_store_answers (exec_ldBcd_inside s x hr) hwf hin
  refine ⟨encodeXB_maskHighLow 0xF x 0x33 _ rfl, t, hnext, ?_, ?_, ?_, houtside, hrest⟩
  · rw [← addrAt_zero_add s 0, hinside 0 (by omega)]
    exact digit_toNat (by omega)
  · rw [← addrAt_zero_add s 1, hinside 1 (by omega)]
    exact digit_toNat (by omega)
  · rw [← addrAt_zero_add s 2, hinside 2 (by omega)]
    exact digit_toNat (by omega)

/-! ### `LD [I], Vx` -/

theorem firstRegs_succ_length (s : State) (x : Reg) : (s.firstRegs (x.val + 1)).length = x.val + 1 :=
  s.firstRegs_length _ x.isLt

/-- Settles O45: the bytes stored are V0..Vx. -/
theorem storeRegistersWritesEachByte : Obligations.StoreRegistersWritesEachByte := by
  intro s x hwf hr
  have hlen := firstRegs_succ_length s x
  have hin : addrAt s 0 + (s.firstRegs (x.val + 1)).length ≤ 4096 := by
    simp only [addrAt] at *
    omega
  obtain ⟨t, hnext, hinside, houtside, hrest⟩ := exec_store_answers (exec_stRegs_inside s x hr) hwf hin
  refine ⟨encodeXB_maskHighLow 0xF x 0x55 _ rfl, t, hnext, fun k hk => ?stored, fun a ha => ?kept, hrest⟩
  case stored =>
    have hlt : k.val < x.val + 1 := Nat.lt_succ_of_le hk
    rw [← addrAt_zero_add s k.val, hinside k.val (by omega)]
    exact s.firstRegs_getElem _ k.val hlt x.isLt
  case kept =>
    refine houtside a fun k hk => ?_
    rw [hlen] at hk
    exact ha ⟨k, by omega⟩ (Nat.le_of_lt_succ hk)

/-! ### `LD Vx, [I]` -/

/-- Settles O46: register k of the loaded file is the byte at I + k up to x, and the old register above. -/
theorem loadRegistersReadsEachByte : Obligations.LoadRegistersReadsEachByte := by
  intro s x hr
  refine ⟨encodeXB_maskHighLow 0xF x 0x65 _ rfl, _, exec_ldRegs_inside s x hr, fun k hk => ?loaded,
    fun k hk => ?above, advanced_two s _ rfl, onlyRegs_setRegs s _ _ _ fun k hk => ?frame⟩
  case loaded =>
    rw [State.advance2_eq, State.setPc_getV, State.loadedRegs_getV, if_pos (Nat.lt_succ_of_le hk), addrAt_zero_add]
  case above =>
    rw [State.advance2_eq, State.setPc_getV, State.loadedRegs_getV, if_neg (Nat.not_lt.mpr hk)]
  case frame =>
    have hx : ¬ k ≤ x := by simpa using hk
    rw [State.loadedRegs_getV, if_neg (Nat.not_lt.mpr (Nat.lt_of_not_le hx))]

/-! ### Past the end of memory -/

/-- An instruction that checks a range past the end of memory halts with none of its effect. -/
theorem exec_withRange_halts {i : Instr} {s t : State} {hi : Nat} {w : Word}
    (hexec : exec i s = .next (s.withRange hi w t)) (hhi : 0xFFF < hi) :
    ∃ u, exec i s = .next u ∧ HaltedWith s u .outOfRangeAddress w :=
  ⟨_, hexec, by rw [s.withRange_outside hi w t hhi]; exact haltedWith_raiseHalt s _ w⟩

/-- Settles O47: each of the four checks its last address first. -/
theorem outOfRangeAccessDoesNothingElse : Obligations.OutOfRangeAccessDoesNothingElse := by
  intro s x y n
  refine ⟨exec_withRange_halts rfl, exec_withRange_halts rfl, exec_withRange_halts rfl, fun hn => ?drw⟩
  case drw =>
    exact exec_withRange_halts (t := (s.blit x y n.val).advance2) (if_neg (by omega))

/-! ### A stored word is the word fetched -/

theorem wordOfBytes_inj {hi lo hi' lo' : Byte} (h : wordOfBytes hi lo = wordOfBytes hi' lo') :
    hi = hi' ∧ lo = lo' := by
  have hnum := congrArg BitVec.toNat h
  rw [wordOfBytes_toNat, wordOfBytes_toNat] at hnum
  have := lo.isLt
  have := lo'.isLt
  exact ⟨BitVec.eq_of_toNat_eq (by omega), BitVec.eq_of_toNat_eq (by omega)⟩

theorem highByte_lowByte_wordOfBytes (hi lo : Byte) :
    highByte (wordOfBytes hi lo) = hi ∧ lowByte (wordOfBytes hi lo) = lo :=
  wordOfBytes_inj (wordOfBytes_highByte_lowByte (wordOfBytes hi lo))

/-- Settles O48: both bytes of the word read as the registers that were stored there. -/
theorem storedWordIsTheWordFetched : Obligations.StoredWordIsTheWordFetched := by
  intro s t u x k j hwf hr ht hj hjx hmem hpc
  obtain ⟨_, t', ht', hstored, _⟩ := storeRegistersWritesEachByte s x hwf hr
  obtain rfl := Host.Outcome.next.inj (ht'.symm.trans ht)
  have hread : ∀ a, u.readByte a = t'.readByte a := fun a => by rw [State.readByte, hmem]; rfl
  have hkx : k ≤ x := Nat.le_of_lt (Nat.lt_of_lt_of_le (by omega) hjx)
  have hnext : u.pc.toNat + 1 = addrAt s j.val := by rw [hpc, hj]; rfl
  have hinside : u.pc.toNat + 1 ≤ 0xFFF := by
    have hjx : j.val ≤ x.val := hjx
    simp only [addrAt] at *
    omega
  refine ⟨_, u.fetch_inside hinside, ?_⟩
  rw [hnext, hpc, hread, hread, hstored k hkx, hstored j hjx]
  exact highByte_lowByte_wordOfBytes (s.getV k) (s.getV j)

end Sys2Proof.Machine
end

section
/-! PROOF. The sprites of spec/45_display.md (R129): one draw flips the pixels a 1 bit lands on, and a second draw of
the same sprite flips them back. -/

namespace Sys2Proof.Machine

/-- A draw collides exactly when a covered pixel was set. -/
theorem blit_collides_iff (s : State) (x y : Reg) (n : Fin 16) :
    ((spritePixels s x y n.val).any fun p => s.disp.pixel p.1 p.2) = true ↔
      ∃ px py, SpriteCovers s x y n.val px py ∧ s.disp.pixel px py = true := by
  simp [List.any_eq_true, mem_spritePixels_iff_covers]

theorem State.blit_getV_flag_of_collides (s : State) (x y : Reg) (n : Fin 16)
    (h : ∃ px py, SpriteCovers s x y n.val px py ∧ s.disp.pixel px py = true) :
    (s.blit x y n.val).getV regF = 1 := by
  rw [s.blit_getV_flag x y n.val (by omega), (blit_collides_iff s x y n).mpr h]
  rfl

theorem State.blit_getV_flag_of_no_collision (s : State) (x y : Reg) (n : Fin 16)
    (h : ∀ px py, SpriteCovers s x y n.val px py → s.disp.pixel px py = false) :
    (s.blit x y n.val).getV regF = 0 := by
  have hnone : ¬ ((spritePixels s x y n.val).any fun p => s.disp.pixel p.1 p.2) = true := by
    rw [blit_collides_iff]
    rintro ⟨px, py, hcovers, hset⟩
    simp [h px py hcovers] at hset
  rw [s.blit_getV_flag x y n.val (by omega), Bool.eq_false_iff.mpr hnone]
  rfl

/-- Settles O50: the sprite's pixels are the covered ones, and none is toggled twice. -/
theorem drawFlipsTheCoveredPixels : Obligations.DrawFlipsTheCoveredPixels := by
  intro s x y n hr
  have hpixel := s.blit_pixel x y n.val (by omega)
  refine ⟨encodeXY_maskHigh 0xD x y (nibble n) _ rfl, _, exec_drw_inside s x y n hr, fun px py hc => ?flipped,
    fun px py hc => ?kept, s.blit_getV_flag_of_collides x y n, s.blit_getV_flag_of_no_collision x y n,
    advanced_two s _ rfl, onlyDisplay_blit s x y n.val _⟩
  case flipped => exact (hpixel px py).trans (if_pos ((mem_spritePixels_iff_covers s x y n.val px py).mpr hc))
  case kept => exact (hpixel px py).trans (if_neg fun h => hc ((mem_spritePixels_iff_covers s x y n.val px py).mp h))

theorem spriteCovers_congr {s u : State} {x y : Reg} (hm : u.mem = s.mem) (hi : u.i = s.i)
    (hx : u.getV x = s.getV x) (hy : u.getV y = s.getV y) (n : Nat) (px : Fin 64) (py : Fin 32) :
    SpriteCovers u x y n px py ↔ SpriteCovers s x y n px py := by
  rw [← mem_spritePixels_iff_covers, ← mem_spritePixels_iff_covers, spritePixels_congr s u x y n hm hi hx hy]

/-- Settles O51: the second draw covers the same pixels, and finds each the flip of what the first found. -/
theorem drawingTwiceRestoresTheGrid : Obligations.DrawingTwiceRestoresTheGrid := by
  intro s t u v x y n hr ht hdisp hmem hindex hx hy hv
  obtain rfl := Host.Outcome.next.inj ((exec_drw_inside s x y n hr).symm.trans ht)
  obtain ⟨_, t, ht', hflip, hkeep, _⟩ := drawFlipsTheCoveredPixels s x y n hr
  obtain rfl := Host.Outcome.next.inj (ht'.symm.trans ht)
  obtain ⟨_, v', hv', hflip', hkeep', hcollides, hclear, _⟩ :=
    drawFlipsTheCoveredPixels u x y n (by rw [hindex]; exact hr)
  obtain rfl := Host.Outcome.next.inj (hv'.symm.trans hv)
  have hcovers := spriteCovers_congr (s := s) hmem hindex hx hy n.val
  simp only [hcovers, hdisp] at hflip' hkeep' hcollides hclear
  refine ⟨fun px py => ?_, fun ⟨px, py, hc, hunset⟩ => ?_, fun hflag => ?_⟩
  · by_cases hc : SpriteCovers s x y n.val px py
    · rw [hflip' px py hc, hflip px py hc, Bool.not_not]
    · rw [hkeep' px py hc, hkeep px py hc]
  · exact hcollides ⟨px, py, hc, by rw [hflip px py hc, hunset]; rfl⟩
  · by_contra hall
    have hset : ∀ px py, SpriteCovers s x y n.val px py → s.disp.pixel px py = true := fun px py hc =>
      Bool.of_not_eq_false fun hunset => hall ⟨px, py, hc, hunset⟩
    rw [hclear fun px py hc => by rw [hflip px py hc, hset px py hc]; rfl] at hflag
    exact absurd hflag (by decide)

end Sys2Proof.Machine
end

section
/-! PROOF. The making of one machine of spec/70_reset_and_hazards.md (R157 to R160): the three regions of memory that
the loader writes, the image that is too long, and the invariants that hold before the first tick. -/

namespace Sys2Proof.Machine

/-! ### The loader keeps memory in canonical form -/

theorem initialMemory_wf (cells : List Host.Cell) : (initialMemory cells).wf = true := by
  induction cells with
  | nil => rfl
  | cons e cells ih =>
    obtain ⟨a, x⟩ := e
    simp only [initialMemory]
    split
    · exact Memory.wf_write _ ih a x ‹_›
    · exact ih

theorem font_length (font : Vector Byte 80) : font.toList.length = 80 := by simp

theorem writeFont_wf (font : Vector Byte 80) (m : Memory) (h : m.wf = true) : (writeFont font m).wf = true :=
  Memory.wf_writeBytes font.toList m h 0 (by rw [font_length]; decide)

theorem loadRom_of_fits (rom : List Byte) (m : Memory) (h : rom.length ≤ 3584) :
    loadRom rom m = m.writeBytes 0x200 rom := if_pos h

theorem loadRom_of_too_long (rom : List Byte) (m : Memory) (h : 3584 < rom.length) : loadRom rom m = m :=
  if_neg (Nat.not_le.mpr h)

theorem loadRom_wf (rom : List Byte) (m : Memory) (h : m.wf = true) : (loadRom rom m).wf = true := by
  by_cases hlen : rom.length ≤ 3584
  · rw [loadRom_of_fits rom m hlen]
    exact Memory.wf_writeBytes rom m h 0x200 (by omega)
  · rwa [loadRom_of_too_long rom m (by omega)]

/-! ### What the loaded memory reads as -/

theorem read_writeFont_inside (font : Vector Byte 80) (m : Memory) (h : m.wf = true) (a : Fin 80) :
    (writeFont font m).read a.val = font[a] := by
  have hread := Memory.read_writeBytes_inside font.toList m h 0 a.val (by rw [font_length]; exact a.isLt)
    (by rw [font_length]; decide)
  rw [Nat.zero_add] at hread
  exact hread.trans (by simp)

theorem read_writeFont_outside (font : Vector Byte 80) (m : Memory) {a : Nat} (h : 80 ≤ a) :
    (writeFont font m).read a = m.read a :=
  Memory.read_writeBytes_outside font.toList m 0 a (.inr (by rw [font_length]; omega))

/-- Settles O55: the loader writes the image after the font, and the two do not overlap. -/
theorem powerOnLoadsFontAndRom : Obligations.PowerOnLoadsFontAndRom := by
  rintro params font ini rom script s rfl hlen
  have hinit := initialMemory_wf ini.mem
  have hmem : (powerOn params font ini rom script).mem =
      (writeFont font (initialMemory ini.mem)).writeBytes 0x200 rom := loadRom_of_fits rom _ hlen
  refine ⟨rfl, rfl, if_pos hlen, if_pos hlen, rfl, rfl, rfl, rfl, rfl, ?index, rfl, rfl, rfl, rfl, rfl,
    fun a => ?font, fun a ha => ?image, fun a hfont himage => ?rest⟩
  case index => exact BitVec.toNat_setWidth_of_le (by decide)
  all_goals rw [State.readByte, hmem]
  case font =>
    rw [Memory.read_writeBytes_outside rom _ _ _ (.inl (by omega)), read_writeFont_inside font _ hinit]
    rfl
  case image => exact Memory.read_writeBytes_inside rom _ (writeFont_wf font _ hinit) _ a ha (by omega)
  case rest => rw [Memory.read_writeBytes_outside rom _ _ _ himage, read_writeFont_outside font _ hfont]

/-- Settles O56: nothing is written after the font, and the machine is halted from the start. -/
theorem romTooLargeNeverStarts : Obligations.RomTooLargeNeverStarts := by
  rintro params font ini rom script s k rfl hlen
  have hrs : (powerOn params font ini rom script).rs = .halted := if_neg (Nat.not_le.mpr hlen)
  refine ⟨hrs, if_neg (Nat.not_le.mpr hlen), fun a ha => ?memory, run_halted _ hrs k⟩
  case memory =>
    have hmem : (powerOn params font ini rom script).mem = writeFont font (initialMemory ini.mem) :=
      loadRom_of_too_long rom _ hlen
    rw [State.readByte, hmem, read_writeFont_outside font _ ha]

/-! ### The invariants before the first tick -/

theorem powerOn_inv (params : Config.Params) (font : Vector Byte 80) (ini : LaunchContents) (rom : List Byte)
    (script : List TickInput) : (powerOn params font ini rom script).Inv where
  index := by
    have hi : (powerOn params font ini rom script).i.toNat = ini.i.toNat := BitVec.toNat_setWidth_of_le (by decide)
    have := ini.i.isLt
    omega
  pcBound := by simp [powerOn]
  spBound := by simp [powerOn]
  returns := by simp [powerOn]
  memory := loadRom_wf rom _ (writeFont_wf font _ (initialMemory_wf ini.mem))
  halts := by by_cases hlen : rom.length ≤ romMax <;> simp [powerOn, hlen]
  overflow := by by_cases hlen : rom.length ≤ romMax <;> simp [powerOn, hlen]
  underflow := by by_cases hlen : rom.length ≤ romMax <;> simp [powerOn, hlen]

theorem powerOn_not_waiting (params : Config.Params) (font : Vector Byte 80) (ini : LaunchContents)
    (rom : List Byte) (script : List TickInput) : (powerOn params font ini rom script).rs ≠ .waitingForKey := by
  by_cases hlen : rom.length ≤ romMax <;> simp [powerOn, hlen]

/-- Settles O21: the machine runs or is halted, and its fields are in range. -/
theorem everyInstanceMeetsTheInvariants : Obligations.EveryInstanceMeetsTheInvariants :=
  fun params font ini rom script => ⟨powerOn_inv params font ini rom script,
    fun hrs => absurd hrs (powerOn_not_waiting params font ini rom script)⟩

end Sys2Proof.Machine
end

section
/-! PROOF. Who writes what (spec/10_state.md R26, R27 and the tables of its other pieces of state). `Writes` refines the
shapes of `Effect` by the instructions that have them; each piece of state is then one case analysis on the shape. -/

namespace Sys2Proof.Machine

/-- The next states of `exec`, each shape with the instructions that have it. -/
inductive Writes (i : Instr) (s : State) : State → Prop
  | registers (v : Vector Byte 16) (a : Word)
      (hv : ∀ r, writesReg i r = false → (s.setRegs v).getV r = s.getV r) (ha : a = s.pc + 2 ∨ a = s.pc + 4) :
      Writes i s ((s.setRegs v).setPc a)
  | jump (a : Word) (hi : (∃ n, i = .jp n) ∨ ∃ n, i = .jpV0 n) : Writes i s (s.setPc a)
  | index (a : Word) (hi : (∃ n, i = .ldI n) ∨ (∃ x, i = .addI x) ∨ ∃ x, i = .ldIFont x) :
      Writes i s ((s.setI a).setPc (s.pc + 2))
  | memory (m : Memory) (hi : (∃ x, i = .ldBcd x) ∨ ∃ x, i = .stRegs x) : Writes i s ((s.setMem m).setPc (s.pc + 2))
  | clear (hi : i = .cls) : Writes i s ((s.setDisp clearedDisplay).setPc (s.pc + 2))
  | draw (x y : Reg) (n : Fin 16) (hi : i = .drw x y n) : Writes i s ((s.blit x y n.val).setPc (s.pc + 2))
  | delay (x : Reg) (hi : i = .ldDtVx x) : Writes i s ((s.setDt (s.getV x)).setPc (s.pc + 2))
  | sound (x : Reg) (hi : i = .ldStVx x) : Writes i s ((s.setSt (s.getV x)).setPc (s.pc + 2))
  | keyTaken (x : Reg) (k : Byte) (hi : i = .ldVxK x) : Writes i s (((s.setV x k).setRs .running).setPc (s.pc + 2))
  | keyWait (x : Reg) (hi : i = .ldVxK x) : Writes i s (s.setRs .waitingForKey)
  | push (nnn : BitVec 12) (h : s.sp.toNat < 16) (hi : i = .call nnn) :
      Writes i s ((s.push (s.pc + 2) h).setPc (address nnn))
  | pop (a : Word) (hi : i = .ret) : Writes i s (s.dropTop.setPc a)
  | outOfRange (w : Word) (hown : ownCondition i s = .outOfRangeAddress) :
      Writes i s (s.raiseHalt .outOfRangeAddress w)
  | overflow (nnn : BitVec 12) (w : Word) (hi : i = .call nnn) : Writes i s (s.overflowFault w)
  | underflow (w : Word) (hi : i = .ret) : Writes i s (s.underflowFault w)

section
variable {i : Instr} {s t : State}

theorem Writes.skip (c : Bool) : Writes i s (s.skipIf c) := by
  rw [State.skipIf_eq]
  exact .registers s.v _ (fun _ _ => rfl) (by cases c <;> simp)

theorem Writes.set (x : Reg) (b : Byte) (hx : ∀ r, writesReg i r = false → r ≠ x) :
    Writes i s (s.setV x b).advance2 :=
  .registers _ _ (fun r hr => State.setV_getV_ne s x b r (hx r hr)) (.inl rfl)

theorem Writes.result (x : Reg) (flag result : Byte) (hx : ∀ r, writesReg i r = false → r ∉ [x, regF]) :
    Writes i s (s.writeResult x flag result).advance2 := by
  obtain ⟨hkept, _⟩ := onlyRegs_writeResult s x flag result 0
  rw [State.writeResult_eq] at hkept ⊢
  exact .registers _ _ (fun r hr => hkept r (hx r hr)) (.inl rfl)

theorem Writes.shift (x : Reg) (flag : Byte) (f : Byte → Byte) (hx : ∀ r, writesReg i r = false → r ∉ [x, regF]) :
    Writes i s (s.writeShift x flag f).advance2 := by
  obtain ⟨hkept, _⟩ := onlyRegs_writeShift s x flag f 0
  rw [State.writeShift_eq] at hkept ⊢
  exact .registers _ _ (fun r hr => hkept r (hx r hr)) (.inl rfl)

theorem Writes.range (hi : Nat) (w : Word) (hin : Writes i s t)
    (hout : 0xFFF < hi → ownCondition i s = .outOfRangeAddress) : Writes i s (s.withRange hi w t) := by
  by_cases hh : 0xFFF < hi
  · rw [s.withRange_outside hi w t hh]
    exact .outOfRange w (hout hh)
  · rw [s.withRange_inside hi w t (by omega)]
    exact hin

theorem exec_writes (h : exec i s = .next t) : Writes i s t := by
  cases i with
  | cls => obtain rfl := Host.Outcome.next.inj h; exact .clear rfl
  | ret =>
    obtain ⟨_, rfl⟩ | ⟨_, _, rfl⟩ := exec_ret_cases h
    · exact .underflow _ rfl
    · exact .pop _ rfl
  | call nnn =>
    obtain ⟨_, rfl⟩ | ⟨hlt, _, rfl⟩ := exec_call_cases h
    · exact .overflow nnn _ rfl
    · exact .push nnn hlt rfl
  | jp nnn => obtain rfl := Host.Outcome.next.inj h; exact .jump _ (.inl ⟨nnn, rfl⟩)
  | jpV0 nnn => obtain rfl := Host.Outcome.next.inj h; exact .jump _ (.inr ⟨nnn, rfl⟩)
  | seImm | sneImm | seReg | sneReg | skp | sknp => obtain rfl := Host.Outcome.next.inj h; exact .skip _
  | ldImm x | addImm x | ldReg x | orReg x | andReg x | xorReg x | rnd x | ldVxDt x =>
    obtain rfl := Host.Outcome.next.inj h
    exact .set x _ fun r hr => by simpa [writesReg] using hr
  | addReg x | subReg x | subn x =>
    obtain rfl := Host.Outcome.next.inj h
    exact .result x _ _ fun r hr => by simpa [writesReg] using hr
  | shr x | shl x =>
    obtain rfl := Host.Outcome.next.inj h
    exact .shift x _ _ fun r hr => by simpa [writesReg] using hr
  | ldI nnn => obtain rfl := Host.Outcome.next.inj h; exact .index _ (.inl ⟨nnn, rfl⟩)
  | addI x => obtain rfl := Host.Outcome.next.inj h; exact .index _ (.inr (.inl ⟨x, rfl⟩))
  | ldIFont x => obtain rfl := Host.Outcome.next.inj h; exact .index _ (.inr (.inr ⟨x, rfl⟩))
  | ldDtVx x => obtain rfl := Host.Outcome.next.inj h; exact .delay x rfl
  | ldStVx x => obtain rfl := Host.Outcome.next.inj h; exact .sound x rfl
  | ldBcd x =>
    obtain rfl := Host.Outcome.next.inj h
    exact .range _ _ (.memory _ (.inl ⟨x, rfl⟩)) fun hr => if_pos hr
  | stRegs x =>
    obtain rfl := Host.Outcome.next.inj h
    exact .range _ _ (.memory _ (.inr ⟨x, rfl⟩)) fun hr => if_pos hr
  | ldRegs x =>
    obtain rfl := Host.Outcome.next.inj h
    refine .range _ _ (.registers _ _ (fun r hr => ?_) (.inl rfl)) fun hr => if_pos hr
    rw [State.loadedRegs_getV, if_neg]
    simpa [writesReg, Nat.lt_succ_iff] using hr
  | drw x y n =>
    by_cases hn : n.val = 0
    · obtain rfl := Host.Outcome.next.inj ((exec_drw_inside s x y n (.inl hn)).symm.trans h)
      exact .draw x y n rfl
    · obtain rfl := Host.Outcome.next.inj ((if_neg hn).symm.trans h)
      refine .range _ _ (.draw x y n rfl) fun hr => if_pos ?_
      simp only [addrAt] at hr
      omega
  | ldVxK x =>
    obtain ⟨_, rfl⟩ | ⟨_, _, _, _, rfl⟩ := exec_ldVxK_cases h
    · exact .keyWait x rfl
    · exact .keyTaken x _ rfl

/-! ### One piece of state after the other -/

theorem Writes.getV_eq (h : Writes i s t) (r : Reg) (hr : writesReg i r = false) : t.getV r = s.getV r := by
  cases h with
  | registers v a hv => exact hv r hr
  | draw x y n hi =>
    subst hi
    exact (onlyDisplay_blit s x y n.val 0).1 r (by simpa [writesReg] using hr)
  | keyTaken x k hi =>
    subst hi
    exact State.setV_getV_ne s x k r (by simpa [writesReg] using hr)
  | overflow nnn w => exact (followsReport_overflowFault s w).regs r (by simp)
  | underflow w => exact (followsReport_underflowFault s w).regs r (by simp)
  | _ => rfl

theorem Writes.keepsIndex (h : Writes i s t) (hldI : ∀ n, i ≠ .ldI n) (haddI : ∀ x, i ≠ .addI x)
    (hfont : ∀ x, i ≠ .ldIFont x) : KeepsIndex s t := by
  cases h with
  | index a hi =>
    obtain ⟨n, hi⟩ | ⟨x, hi⟩ | ⟨x, hi⟩ := hi
    · exact absurd hi (hldI n)
    · exact absurd hi (haddI x)
    · exact absurd hi (hfont x)
  | overflow nnn w => exact (followsReport_overflowFault s w).index
  | underflow w => exact (followsReport_underflowFault s w).index
  | _ => rfl

theorem Writes.pc_cases (h : Writes i s t) (hret : i ≠ .ret) (hjp : ∀ n, i ≠ .jp n) (hcall : ∀ n, i ≠ .call n)
    (hjpV0 : ∀ n, i ≠ .jpV0 n) : KeepsPc s t ∨ Advanced s t 2 ∨ Advanced s t 4 := by
  cases h with
  | registers v a _ ha =>
    obtain rfl | rfl := ha
    · exact .inr (.inl (advanced_two s _ rfl))
    · exact .inr (.inr (advanced_four s _ rfl))
  | jump a hi =>
    obtain ⟨n, hi⟩ | ⟨n, hi⟩ := hi
    · exact absurd hi (hjp n)
    · exact absurd hi (hjpV0 n)
  | keyWait => exact .inl rfl
  | outOfRange => exact .inl rfl
  | push nnn _ hi => exact absurd hi (hcall nnn)
  | overflow nnn w hi => exact absurd hi (hcall nnn)
  | pop a hi => exact absurd hi hret
  | underflow w hi => exact absurd hi hret
  | _ => exact .inr (.inl (advanced_two s _ rfl))

theorem Writes.stack_eq (h : Writes i s t) (hret : i ≠ .ret) (hcall : ∀ n, i ≠ .call n) :
    t.sp = s.sp ∧ t.stack = s.stack := by
  cases h with
  | push nnn _ hi => exact absurd hi (hcall nnn)
  | overflow nnn w hi => exact absurd hi (hcall nnn)
  | pop a hi => exact absurd hi hret
  | underflow w hi => exact absurd hi hret
  | _ => exact ⟨rfl, rfl⟩

theorem Writes.dt_eq (h : Writes i s t) (hdt : ∀ x, i ≠ .ldDtVx x) : t.dt = s.dt := by
  cases h with
  | delay x hi => exact absurd hi (hdt x)
  | overflow nnn w => exact (followsReport_overflowFault s w).timers.1
  | underflow w => exact (followsReport_underflowFault s w).timers.1
  | _ => rfl

theorem Writes.st_eq (h : Writes i s t) (hst : ∀ x, i ≠ .ldStVx x) : t.st = s.st := by
  cases h with
  | sound x hi => exact absurd hi (hst x)
  | overflow nnn w => exact (followsReport_overflowFault s w).timers.2
  | underflow w => exact (followsReport_underflowFault s w).timers.2
  | _ => rfl

theorem Writes.keepsDisplay (h : Writes i s t) (hcls : i ≠ .cls) (hdrw : ∀ x y n, i ≠ .drw x y n) :
    KeepsDisplay s t := by
  cases h with
  | clear hi => exact absurd hi hcls
  | draw x y n hi => exact absurd hi (hdrw x y n)
  | overflow nnn w => exact (followsReport_overflowFault s w).display
  | underflow w => exact (followsReport_underflowFault s w).display
  | _ => exact fun _ _ => rfl

theorem Writes.keepsMemory (h : Writes i s t) (hbcd : ∀ x, i ≠ .ldBcd x) (hstore : ∀ x, i ≠ .stRegs x) :
    KeepsMemory s t := by
  cases h with
  | memory m hi =>
    obtain ⟨x, hi⟩ | ⟨x, hi⟩ := hi
    · exact absurd hi (hbcd x)
    · exact absurd hi (hstore x)
  | overflow nnn w => exact (followsReport_overflowFault s w).memory
  | underflow w => exact (followsReport_underflowFault s w).memory
  | _ => exact fun _ => rfl

theorem Writes.fault_eq (h : Writes i s t) (hown : ownCondition i s = .none) (hret : i ≠ .ret)
    (hcall : ∀ n, i ≠ .call n) : t.faultPc = s.faultPc ∧ t.faultWord = s.faultWord := by
  cases h with
  | outOfRange w hout => simp [hout] at hown
  | overflow nnn w hi => exact absurd hi (hcall nnn)
  | underflow w hi => exact absurd hi hret
  | _ => exact ⟨rfl, rfl⟩

theorem Writes.diagOvf_eq (h : Writes i s t) (hcall : ∀ n, i ≠ .call n) : t.diagOvf = s.diagOvf := by
  cases h with
  | overflow nnn w hi => exact absurd hi (hcall nnn)
  | underflow w => exact (followsReport_underflowFault s w).overflow
  | _ => rfl

theorem Writes.diagUnf_eq (h : Writes i s t) (hret : i ≠ .ret) : t.diagUnf = s.diagUnf := by
  cases h with
  | overflow nnn w => exact (followsReport_overflowFault s w).underflow
  | underflow w hi => exact absurd hi hret
  | _ => rfl

/-- `Fx0A` leaves HALT_CAUSE, and every other instruction halts exactly under its own condition. -/
theorem exec_haltCause_eq (h : exec i s = .next t) (hown : ownCondition i s = .none) : t.haltCause = s.haltCause := by
  by_cases hk : ∃ x, i = .ldVxK x
  · obtain ⟨x, rfl⟩ := hk
    cases exec_writes h with
    | outOfRange w hout => cases hout
    | overflow nnn w hi => cases hi
    | underflow w hi => cases hi
    | _ => rfl
  · exact ((exec_haltsBy i s t (fun x hi => hk ⟨x, hi⟩) h).keeps hown).2

end

/-- Settles O25, assembled from the pieces. -/
theorem onlyTheNamedInstructionsWrite : Obligations.OnlyTheNamedInstructionsWrite := by
  intro i s t h
  have hw := exec_writes h
  have hstack : i ≠ .ret → (∀ n, i ≠ .call n) → KeepsStack s t := fun hret hcall =>
    ⟨(hw.stack_eq hret hcall).1, fun k => by rw [(hw.stack_eq hret hcall).2]⟩
  exact ⟨hw.getV_eq, hw.keepsIndex, hw.pc_cases, hstack, hw.dt_eq, hw.st_eq, hw.keepsDisplay, hw.keepsMemory,
    fun hown hk => ((exec_haltsBy i s t hk h).keeps hown).1, exec_haltCause_eq h, hw.fault_eq, hw.diagOvf_eq,
    hw.diagUnf_eq, (exec_effect i s t h).keepsEnvironment⟩

/-! ### VF -/

theorem flagByte_eq_zero_or_one (b : Bool) : flagByte b = 0 ∨ flagByte b = 1 := by
  cases b with
  | false => exact .inl rfl
  | true => exact .inr rfl

theorem shiftedOutLow_eq_zero_or_one (a : Byte) : shiftedOutLow a = 0 ∨ shiftedOutLow a = 1 := by
  obtain h | h := Nat.mod_two_eq_zero_or_one a.toNat <;> rw [← shiftedOutLow_toNat] at h
  · exact .inl (BitVec.eq_of_toNat_eq h)
  · exact .inr (BitVec.eq_of_toNat_eq h)

/-- With a destination other than VF, VF ends with the flag. -/
theorem exec_flag {i : Instr} {s : State} {x : Reg} (hi : flagDest i = some x) (hx : x ≠ regF) :
    ∃ t, exec i s = .next t ∧ (t.getV regF = 0 ∨ t.getV regF = 1) := by
  cases i with
  | addReg x' y | subReg x' y | subn x' y =>
    obtain rfl := Option.some.inj hi
    refine ⟨_, rfl, ?_⟩
    rw [State.advance2_eq, State.setPc_getV, State.writeResult_getV, if_pos ⟨rfl, .inl hx⟩]
    exact flagByte_eq_zero_or_one _
  | shr x' y =>
    obtain rfl := Option.some.inj hi
    refine ⟨_, rfl, ?_⟩
    rw [State.advance2_eq, State.setPc_getV, State.writeShift_getV, if_pos ⟨rfl, .inl hx⟩]
    exact shiftedOutLow_eq_zero_or_one _
  | shl x' y =>
    obtain rfl := Option.some.inj hi
    refine ⟨_, rfl, ?_⟩
    rw [State.advance2_eq, State.setPc_getV, State.writeShift_getV, if_pos ⟨rfl, .inl hx⟩]
    exact flagByte_eq_zero_or_one _
  | _ => cases hi

/-- Settles O26: every flag is 0 or 1, and the instructions that do not write VF leave it. -/
theorem flagSettersAlwaysOverwriteVF : Obligations.FlagSettersAlwaysOverwriteVF := by
  intro i s
  refine ⟨fun x hi hx => exec_flag hi hx, ?draw, fun t h hr => (exec_writes h).getV_eq regF hr⟩
  case draw =>
    rintro x y n rfl hn
    refine ⟨_, exec_drw_inside s x y n hn, ?_⟩
    rw [State.advance2_eq, State.setPc_getV, s.blit_getV_flag x y n.val (by omega)]
    exact flagByte_eq_zero_or_one _

end Sys2Proof.Machine
end

section
/-! PROOF. What a program cannot observe (spec/10_state.md R37, R38). A relation between states that the poll, the
halts, the instructions and the end of a tick keep, and that leaves the loop's own checks alike, is kept by runs of any
length. Dead stack cells, ST and ST_DECREMENTS are such: an instruction other than a call, a return and `Fx18`
carries any change of them along. -/

namespace Sys2Proof.Machine

/-! ### Relations that every tick keeps -/

/-- `R` relates states whose ticks go the same way, and every part of a tick keeps it. -/
structure KeptByTicks (R : State → State → Prop) : Prop where
  rs : ∀ {s s'}, R s s' → s'.rs = s.rs
  closeReq : ∀ {s s'}, R s s' → s'.closeReq = s.closeReq
  fetch : ∀ {s s'}, R s s' → s'.fetch = s.fetch
  poll : ∀ {s s'}, R s s' → R s.poll s'.poll
  haltOnClose : ∀ {s s'}, R s s' → R s.haltOnClose s'.haltOnClose
  raiseHalt : ∀ {s s'} (c : HaltCause) (w : Word), R s s' → R (s.raiseHalt c w) (s'.raiseHalt c w)
  exec : ∀ {s s' t} (i : Instr), R s s' → exec i s = .next t → ∃ t', exec i s' = .next t' ∧ R t t'
  endTick : ∀ {s s'}, R s s' → R s.endTick s'.endTick

theorem KeptByTicks.afterPoll {R : State → State → Prop} (hR : KeptByTicks R) {s s' t : State} (h : R s s')
    (ht : afterPoll s = .next t) : ∃ t', afterPoll s' = .next t' ∧ R t t' := by
  cases hc : s.closeReq with
  | true =>
    obtain rfl := Host.Outcome.next.inj ((afterPoll_close s hc).symm.trans ht)
    exact ⟨_, afterPoll_close s' (by rw [hR.closeReq h, hc]), hR.haltOnClose h⟩
  | false =>
    have hc' : s'.closeReq = false := by rw [hR.closeReq h, hc]
    cases hf : s.fetch with
    | none =>
      obtain rfl := Host.Outcome.next.inj ((afterPoll_noWord s hc hf).symm.trans ht)
      exact ⟨_, afterPoll_noWord s' hc' (by rw [hR.fetch h, hf]), hR.raiseHalt _ _ h⟩
    | some w =>
      rw [afterPoll_word s w hc hf] at ht
      rw [afterPoll_word s' w hc' (by rw [hR.fetch h, hf])]
      cases hd : decode w with
      | unrecognized =>
        by_cases h0 : w = 0
        · subst h0
          obtain rfl := Host.Outcome.next.inj ((runWord_zero s).symm.trans ht)
          exact ⟨_, runWord_zero s', hR.raiseHalt _ _ h⟩
        · obtain rfl := Host.Outcome.next.inj ((runWord_unrecognized s w h0 hd).symm.trans ht)
          exact ⟨_, runWord_unrecognized s' w h0 hd, hR.raiseHalt _ _ h⟩
      | instr i =>
        rw [runWord_instr s w i hd] at ht
        obtain ⟨u, hu, rfl⟩ := runInstr_next i s t ht
        obtain ⟨u', hu', hrel⟩ := hR.exec i h hu
        exact ⟨u'.endTick, by rw [runWord_instr s' w i hd, runInstr, hu'], hR.endTick hrel⟩

theorem KeptByTicks.step {R : State → State → Prop} (hR : KeptByTicks R) {s s' t : State} (h : R s s')
    (ht : step s = .next t) : ∃ t', step s' = .next t' ∧ R t t' := by
  by_cases hrs : s.rs = .halted
  · obtain rfl := Host.Outcome.next.inj ((step_halted s hrs).symm.trans ht)
    exact ⟨s', step_halted s' (by rw [hR.rs h, hrs]), h⟩
  · rw [step_polled s hrs] at ht
    rw [step_polled s' (by rwa [hR.rs h])]
    exact hR.afterPoll (hR.poll h) ht

theorem KeptByTicks.run {R : State → State → Prop} (hR : KeptByTicks R) (k : Nat) {s s' t : State} (h : R s s')
    (ht : Host.Core.run Sys2Proof.core k s = .next t) :
    ∃ t', Host.Core.run Sys2Proof.core k s' = .next t' ∧ R t t' := by
  induction k generalizing s s' with
  | zero =>
    obtain rfl := Host.Outcome.next.inj ((run_zero s).symm.trans ht)
    exact ⟨s', run_zero s', h⟩
  | succ k ih =>
    obtain ⟨u, hu, hrun⟩ := run_next k s t ht
    obtain ⟨u', hu', hrel⟩ := hR.step h hu
    obtain ⟨t', ht', hrel'⟩ := ih hrel hrun
    exact ⟨t', by rw [run_succ k s' u' hu', ht'], hrel'⟩

/-! ### The state with other stack cells, another ST and another ST_DECREMENTS -/

/-- `s` with what only a call, a return, `Fx18` and the end of a tick read or write. -/
def State.withUnread (s : State) (cells : Vector Word 16) (st : Byte) (stDecrements : Bool) : State :=
  { s with stack := cells, st := st, params := { s.params with stDecrements := stDecrements } }

section
variable (s : State) (cells : Vector Word 16) (x : Byte) (b : Bool)

theorem State.poll_withUnread : (s.withUnread cells x b).poll = s.poll.withUnread cells x b := by
  cases h : s.script with
  | nil => simp [State.poll, State.withUnread, h]
  | cons t rest => simp [State.poll, State.withUnread, h]

theorem State.skipIf_withUnread (c : Bool) :
    (s.withUnread cells x b).skipIf c = (s.skipIf c).withUnread cells x b := by
  cases c <;> rfl

theorem State.withRange_withUnread (hi : Nat) (w : Word) {t t' : State} (ht : t' = t.withUnread cells x b) :
    (s.withUnread cells x b).withRange hi w t' = (s.withRange hi w t).withUnread cells x b := by
  subst ht
  unfold State.withRange
  split <;> rfl

theorem State.writeResult_withUnread (r : Reg) (flag result : Byte) :
    (s.withUnread cells x b).writeResult r flag result = (s.writeResult r flag result).withUnread cells x b := by
  unfold State.writeResult
  cases h : s.params.xfDestRule <;> simp [State.withUnread, h] <;> rfl

theorem State.writeShift_withUnread (r : Reg) (flag : Byte) (f : Byte → Byte) :
    (s.withUnread cells x b).writeShift r flag f = (s.writeShift r flag f).withUnread cells x b := by
  unfold State.writeShift
  cases h : s.params.xfDestRule <;> simp [State.withUnread, h] <;> rfl

theorem State.loadedRegs_withUnread (a n : Nat) : (s.withUnread cells x b).loadedRegs a n = s.loadedRegs a n := by
  induction n with
  | zero => rfl
  | succ n ih => rw [State.loadedRegs, State.loadedRegs, ih]; rfl

/-- Every instruction but a call, a return and `Fx18` carries the change along. -/
theorem exec_withUnread {i : Instr} {t : State} (hret : i ≠ .ret) (hcall : ∀ n, i ≠ .call n)
    (hst : ∀ r, i ≠ .ldStVx r) (h : exec i s = .next t) :
    exec i (s.withUnread cells x b) = .next (t.withUnread cells x b) := by
  cases i with
  | ret => exact absurd rfl hret
  | call n => exact absurd rfl (hcall n)
  | ldStVx r => exact absurd rfl (hst r)
  | ldVxK r =>
    obtain ⟨hnone, rfl⟩ | ⟨k, hlt, hdown, hleast, rfl⟩ := exec_ldVxK_cases h
    · exact exec_ldVxK_noKey (s.withUnread cells x b) r hnone
    · exact exec_ldVxK_pressed (s.withUnread cells x b) r k hlt hdown hleast
  | drw r q n =>
    by_cases hn : n.val = 0
    · obtain rfl := Host.Outcome.next.inj ((exec_drw_inside s r q n (.inl hn)).symm.trans h)
      exact exec_drw_inside (s.withUnread cells x b) r q n (.inl hn)
    · obtain rfl := Host.Outcome.next.inj ((if_neg hn).symm.trans h)
      exact (if_neg hn).trans (congrArg Host.Outcome.next (s.withRange_withUnread cells x b _ _ rfl))
  | ldBcd r | stRegs r =>
    obtain rfl := Host.Outcome.next.inj h
    exact congrArg Host.Outcome.next (s.withRange_withUnread cells x b _ _ rfl)
  | ldRegs r =>
    obtain rfl := Host.Outcome.next.inj h
    exact congrArg Host.Outcome.next
      (s.withRange_withUnread cells x b _ _ (by rw [State.loadedRegs_withUnread]; rfl))
  | seImm | sneImm | seReg | sneReg | skp | sknp =>
    obtain rfl := Host.Outcome.next.inj h
    exact congrArg Host.Outcome.next (s.skipIf_withUnread cells x b _)
  | addReg | subReg | subn =>
    obtain rfl := Host.Outcome.next.inj h
    exact congrArg (fun t => Host.Outcome.next (State.advance2 t)) (s.writeResult_withUnread cells x b _ _ _)
  | shr | shl =>
    obtain rfl := Host.Outcome.next.inj h
    exact congrArg (fun t => Host.Outcome.next (State.advance2 t)) (s.writeShift_withUnread cells x b _ _ _)
  | _ =>
    obtain rfl := Host.Outcome.next.inj h
    rfl

end

/-! ### The relation of such states -/

/-- `s'` is `s` with dead stack cells, ST and ST_DECREMENTS changed: not the stack where `sameStack` holds, and not
the sound timer where `sameSound` holds. -/
def Alike (sameStack sameSound : Prop) (s s' : State) : Prop :=
  ∃ cells x b, s' = s.withUnread cells x b ∧
    (∀ k : Fin 16, k.val < s.sp.toNat → cells[k.val] = s.stack[k.val]) ∧
    (sameStack → cells = s.stack) ∧ (sameSound → x = s.st ∧ b = s.params.stDecrements)

theorem sameButSound_iff (s s' : State) : SameButSound s s' ↔ Alike True False s s' := by
  constructor
  · intro h
    exact ⟨s.stack, s'.st, s'.params.stDecrements, h, fun _ _ => rfl, fun _ => rfl, False.elim⟩
  · rintro ⟨cells, x, b, rfl, _, hstack, _⟩
    obtain rfl := hstack trivial
    rfl

theorem sameButDeadStack_iff (s s' : State) : SameButDeadStack s s' ↔ Alike False True s s' := by
  constructor
  · rintro ⟨h, hlive⟩
    exact ⟨s'.stack, s.st, s.params.stDecrements, h, hlive, False.elim, fun _ => ⟨rfl, rfl⟩⟩
  · rintro ⟨cells, x, b, rfl, hlive, _, hsound⟩
    obtain ⟨rfl, rfl⟩ := hsound trivial
    exact ⟨rfl, hlive⟩

section
variable {sameStack sameSound : Prop} {s s' t : State}

theorem Alike.poll (h : Alike sameStack sameSound s s') : Alike sameStack sameSound s.poll s'.poll := by
  obtain ⟨cells, x, b, rfl, hlive, hstack, hsound⟩ := h
  rw [State.poll_withUnread]
  obtain ⟨_, hp⟩ | ⟨_, _, _, hp⟩ := s.poll_cases <;> rw [hp] <;> exact ⟨cells, x, b, rfl, hlive, hstack, hsound⟩

theorem Alike.endTick (h : Alike sameStack sameSound s s') : Alike sameStack sameSound s.endTick s'.endTick := by
  obtain ⟨cells, x, b, rfl, hlive, hstack, hsound⟩ := h
  cases hrs : s.rs with
  | running =>
    rw [s.endTick_running hrs, State.endTick_running (s.withUnread cells x b) hrs]
    refine ⟨cells, _, b, rfl, hlive, hstack, fun hsame => ?_⟩
    obtain ⟨rfl, rfl⟩ := hsound hsame
    exact ⟨rfl, rfl⟩
  | waitingForKey =>
    rw [s.endTick_waiting hrs, State.endTick_waiting (s.withUnread cells x b) hrs]
    exact ⟨cells, x, b, rfl, hlive, hstack, hsound⟩
  | halted =>
    rw [s.endTick_halted hrs, State.endTick_halted (s.withUnread cells x b) hrs]
    exact ⟨cells, x, b, rfl, hlive, hstack, hsound⟩

theorem Alike.afterReport (c : HaltCause) (w : Word) (h : Alike sameStack sameSound s s') :
    Alike sameStack sameSound (s.afterReport c w) (s'.afterReport c w) := by
  obtain ⟨cells, x, b, rfl, hrest⟩ := h
  cases hp : s.params.stackFaultPolicy with
  | halt =>
    rw [s.afterReport_halt c w hp, State.afterReport_halt (s.withUnread cells x b) c w hp]
    exact ⟨cells, x, b, rfl, hrest⟩
  | continues =>
    rw [s.afterReport_continues c w hp, State.afterReport_continues (s.withUnread cells x b) c w hp]
    exact ⟨cells, x, b, rfl, hrest⟩

/-- A return reads the top cell, which is below SP. -/
theorem Alike.exec_ret (h : Alike sameStack sameSound s s') (ht : exec .ret s = .next t) :
    ∃ t', exec .ret s' = .next t' ∧ Alike sameStack sameSound t t' := by
  obtain ⟨cells, x, b, rfl, hlive, hstack, hsound⟩ := h
  obtain ⟨h0, rfl⟩ | ⟨hlt, h0, rfl⟩ := exec_ret_cases ht
  · exact ⟨_, exec_ret_underflow (s.withUnread cells x b) h0,
      Alike.afterReport _ _ ⟨cells, x, b, rfl, hlive, hstack, hsound⟩⟩
  · have htop := s.dropTop_sp_toNat_lt h0
    have hcell : cells[s.dropTop.sp.toNat] = s.stack[s.dropTop.sp.toNat] := hlive ⟨_, hlt⟩ htop
    exact ⟨_, exec_ret_pop (s.withUnread cells x b) h0 hlt, cells, x, b,
      congrArg (fun a => (s.dropTop.setPc a).withUnread cells x b) hcell, fun k hk => hlive k (hk.trans htop), hstack,
      hsound⟩

/-- A call writes the cell at SP, which is live after it. -/
theorem Alike.exec_call (nnn : BitVec 12) (h : Alike sameStack sameSound s s') (ht : exec (.call nnn) s = .next t) :
    ∃ t', exec (.call nnn) s' = .next t' ∧ Alike sameStack sameSound t t' := by
  obtain ⟨cells, x, b, rfl, hlive, hstack, hsound⟩ := h
  obtain ⟨h15, rfl⟩ | ⟨hlt, h15, rfl⟩ := exec_call_cases ht
  · exact ⟨_, exec_call_overflow (s.withUnread cells x b) nnn h15,
      Alike.afterReport _ _ ⟨cells, x, b, rfl, hlive, hstack, hsound⟩⟩
  · refine ⟨_, exec_call_push (s.withUnread cells x b) nnn h15 hlt, cells.set s.sp.toNat (s.pc + 2), x, b, rfl,
      fun k hk => ?live, fun hsame => ?same, hsound⟩
    case live =>
      rw [State.setPc_sp, State.push_sp] at hk
      rw [State.setPc_stack, State.push_stack, Vector.getElem_set, Vector.getElem_set]
      split
      · rfl
      · exact hlive k (by bv_omega)
    case same => rw [hstack hsame, State.setPc_stack, State.push_stack]

theorem Alike.exec {i : Instr} (h : Alike sameStack sameSound s s') (ht : exec i s = .next t) :
    ∃ t', Machine.exec i s' = .next t' ∧ Alike sameStack sameSound t t' := by
  by_cases hret : i = .ret
  · subst hret
    exact h.exec_ret ht
  by_cases hcall : ∃ nnn, i = .call nnn
  · obtain ⟨nnn, rfl⟩ := hcall
    exact h.exec_call nnn ht
  by_cases hst : ∃ r, i = .ldStVx r
  · obtain ⟨r, rfl⟩ := hst
    obtain ⟨cells, x, b, rfl, hlive, hstack, hsound⟩ := h
    obtain rfl := Host.Outcome.next.inj ((exec_ldStVx s r).symm.trans ht)
    exact ⟨_, exec_ldStVx _ r, cells, s.getV r, b, rfl, hlive, hstack, fun hsame => ⟨rfl, (hsound hsame).2⟩⟩
  have hcall : ∀ nnn, i ≠ .call nnn := fun nnn hi => hcall ⟨nnn, hi⟩
  have hst : ∀ r, i ≠ .ldStVx r := fun r hi => hst ⟨r, hi⟩
  obtain ⟨cells, x, b, rfl, hlive, hstack, hsound⟩ := h
  refine ⟨_, exec_withUnread s cells x b hret hcall hst ht, cells, x, b, rfl, ?_⟩
  obtain ⟨hsp, hcells⟩ := (exec_writes ht).stack_eq hret hcall
  obtain ⟨_, _, _, _, _, _, hparams⟩ := (exec_effect i s t ht).keepsEnvironment
  rw [hsp, hcells, (exec_writes ht).st_eq hst, hparams]
  exact ⟨hlive, hstack, hsound⟩

theorem keptByTicks_alike (sameStack sameSound : Prop) : KeptByTicks (Alike sameStack sameSound) where
  rs := by rintro _ _ ⟨cells, x, b, rfl, _⟩; rfl
  closeReq := by rintro _ _ ⟨cells, x, b, rfl, _⟩; rfl
  fetch := by rintro _ _ ⟨cells, x, b, rfl, _⟩; rfl
  poll := Alike.poll
  haltOnClose := by rintro _ _ ⟨cells, x, b, rfl, h⟩; exact ⟨cells, x, b, rfl, h⟩
  raiseHalt := by rintro _ _ _ _ ⟨cells, x, b, rfl, h⟩; exact ⟨cells, x, b, rfl, h⟩
  exec _ := Alike.exec
  endTick := Alike.endTick

end

/-- Settles O57: dead cells stay dead or are overwritten alike, by induction on the number of ticks; the
invariant is not needed. -/
theorem deadStackCellsAreUnobservable : Obligations.DeadStackCellsAreUnobservable := by
  intro k s s' t _ h ht
  obtain ⟨t', ht', hrel⟩ := (keptByTicks_alike False True).run k ((sameButDeadStack_iff s s').mp h) ht
  exact ⟨t', ht', (sameButDeadStack_iff t t').mpr hrel⟩

/-- Settles O58: only `Fx18` and the end of a tick write ST, and nothing reads it, by induction on the number of
ticks. -/
theorem soundTimerIsUnobservable : Obligations.SoundTimerIsUnobservable := by
  intro k s s' t h ht
  obtain ⟨t', ht', hrel⟩ := (keptByTicks_alike True False).run k ((sameButSound_iff s s').mp h) ht
  exact ⟨t', ht', (sameButSound_iff t t').mpr hrel⟩

end Sys2Proof.Machine
end
